-- ==== Sys2Proof/Word.lean ====
section
/-! DEFINITION. The word type of the block: every datum it moves is one byte (spec/00_scope.md R10, spec/20_memory.md R65). -/

namespace Sys2Proof

/-- One byte, the only data width (R10, R67). -/
abbrev Byte := BitVec 8

/-- A 5-bit internal-storage address (R61, R96). -/
abbrev StorageAddr := BitVec 5

/-- The level of an open-drain line as sampled: `false` is low (0), `true` is high (1) (spec/00_scope.md section 5, R93). -/
abbrev Level := Bool

/-- One entry of the host outbound queue and of the output latch: the byte and `is_auxiliary` (R100). -/
abbrev OutEntry := Byte × Bool

end Sys2Proof
end

