-- ==== Sys2Proof/Config.lean ====
section
/-! DEFINITION. What one implementation fixes (spec/00_scope.md R10, R11) and the free values. An OPEN parameter and a free
value is a constant without a body: no proof can see what it is, so a statement about it holds for every value. -/

namespace Sys2Proof.Config

/-- `N_PS2Q`: slots per PS/2 receive and transmit queue (R10, R120). -/
def ps2QueueSlots : Nat := 16

/-- `N_OUTQ`: slots of the host outbound queue (R10, R120). -/
def outQueueSlots : Nat := 32

/-- `FRAME_BITS` (R10). -/
def frameBits : Nat := 11

/-- `NV_LO`, the lowest address of the non-volatile store (R10). -/
def nvLo : Nat := 1

/-- `NV_HI`, the highest address of the non-volatile store (R10). -/
def nvHi : Nat := 30

/-- `SELFTEST_PASS` (R10). -/
def selfTestPass : Byte := 0x55

/-- How far `TIMEOUT_THRESHOLD` lies above its smallest value 1 (R11, D12). OPEN. -/
opaque timeoutThresholdLessOne : Nat

/-- `TIMEOUT_THRESHOLD`: any natural number that is at least 1 (R11, D12). -/
def timeoutThreshold : Nat := timeoutThresholdLessOne + 1

/-- `CONFIG_RESET`: the value both resets load into `cfg` (R11, D21). OPEN. -/
opaque configReset : Byte

/-- The byte `IFTEST_PASS` is made from (R11, D18). OPEN. -/
opaque ifTestRaw : Byte

/-- `IFTEST_PASS`: any byte other than 0x55 (R11, D18). Every such byte is the value of this for `ifTestRaw` equal to it. -/
def ifTestPass : Byte := if ifTestRaw = selfTestPass then 0x00 else ifTestRaw

/-- `INPUT_PORT_VALUE` (R11, R222, D18). OPEN. -/
opaque inputPortValue : Byte

/-- `OUTPUT_PORT_VALUE` (R11, R223, D18). OPEN. -/
opaque outputPortValue : Byte

/-- `SENTINEL` of the byte queues (R11, R124, D24). OPEN; no rule reads it. -/
opaque sentinelByte : Byte

/-- `SENTINEL` of the outbound queue (R11, R124, D24). OPEN; no rule reads it. -/
opaque sentinelEntry : OutEntry

/-- `NV_INIT`: the store's contents at first power-on, by address (R11, R46, D23). OPEN. -/
opaque nvInit : Nat → Byte

/-- How far `T_RTS_HOLD` lies above 100 microseconds (R11, D36). OPEN. -/
opaque rtsHoldBeyondMinimum : Nat

/-- `T_RTS_HOLD` in microseconds, at least 100 (R11, R360). -/
def rtsHold : Nat := 100 + rtsHoldBeyondMinimum

/-- `T_RTS_GUARD` in microseconds (R11, R360, D36). OPEN. -/
opaque rtsGuard : Nat

/-- `T_SETTLE` in microseconds (R11, R360, D36). OPEN. -/
opaque settle : Nat

/-- Free value: draw number `n` of a byte the spec leaves unspecified (U12). -/
opaque freeByte : Nat → Byte

/-- Free value: draw number `n` of a bit the spec leaves unspecified (U12). -/
opaque freeBit : Nat → Bool

/-- Free value: draw number `n` of what a host reads from an output latch never written (U13, R199). -/
opaque freeEntry : Nat → OutEntry

/-- Free value: in draw number `n`, whether a reset command leaves the queue's item number `i` in place (U1, R332). -/
opaque freeKeep : Nat → Nat → Bool

end Sys2Proof.Config
end

