-- ==== Sys2Proof/Machine/Codes.lean ====
section
/-! DEFINITION. The command codes as named constants (spec/30_encoding.md R104). Codes the document gives: 0x20, 0x60, 0xAA,
0xAD, 0xAE and the two storage windows. PRESUMED (the 8042 family's, spec decision D15, log 6): every other code here. -/

namespace Sys2Proof.Machine

/-- Base of the read window: code 0x20 + a reads storage address a; a = 0 is `RDCFG` (R62, R104). -/
def codeReadWindow : Byte := 0x20
/-- Base of the write window: code 0x60 + a writes storage address a; a = 0 is `WRCFG` (R62, R104). -/
def codeWriteWindow : Byte := 0x60
def codeAuxdis : Byte := 0xA7
def codeAuxen : Byte := 0xA8
def codeAuxtest : Byte := 0xA9
def codeSelftest : Byte := 0xAA
def codeKbdtest : Byte := 0xAB
def codeKbddis : Byte := 0xAD
def codeKbden : Byte := 0xAE
def codeRdinp : Byte := 0xC0
def codeRdout : Byte := 0xD0
def codeWrout : Byte := 0xD1
def codeWrkbdob : Byte := 0xD2
def codeWrauxob : Byte := 0xD3
def codeWrauxdev : Byte := 0xD4

/-- The default of the parameter `RESET_CODES` (R11, D19), the one spec/opcode_table.json is written for (R104). PRESUMED,
log 5. The machine's own set is `State.resetCodes`. -/
def defaultResetCodes : List Byte := [0xFE]

/-- The storage window a code lies in: its upper three bits, which are 0b001 for reads and 0b011 for writes (R96). -/
def codeWindow (c : Byte) : BitVec 3 := c.extractLsb' 5 3

/-- The 5-bit address field `code[4:0]` (R96). -/
def codeAddr (c : Byte) : StorageAddr := c.extractLsb' 0 5

/-- A storage-window code: the window's base with the address in the low five bits (R62, R96). -/
def windowCode (base : Byte) (a : StorageAddr) : Byte := base + a.setWidth 8

/-- The non-volatile addresses 1 to 30, `NV_LO..NV_HI` (R40, R61). -/
def isNvAddr (a : StorageAddr) : Bool := decide (Config.nvLo ≤ a.toNat) && decide (a.toNat ≤ Config.nvHi)

/-- The codes of single commands, those outside the two storage windows and `RESET_CODES` (R104). -/
def singleCodes : List Byte :=
  [codeAuxdis, codeAuxen, codeAuxtest, codeSelftest, codeKbdtest, codeKbddis, codeKbden, codeRdinp, codeRdout,
   codeWrout, codeWrkbdob, codeWrauxob, codeWrauxdev]

/-- Whether a command code stands in the command map, in some row other than the last two (R104, R101). Both windows run over
the addresses 0 to 30: 0x3F and 0x7F are not defined codes (D20). -/
def isCommandCode (c : Byte) : Bool :=
  (decide (0x20#8 ≤ c) && decide (c ≤ 0x3E#8)) || (decide (0x60#8 ≤ c) && decide (c ≤ 0x7E#8)) || singleCodes.contains c

/-- What R11 asks of `RESET_CODES`: not empty, and disjoint from every other defined code. -/
abbrev resetCodesOk (resets : List Byte) : Prop := resets ≠ [] ∧ ∀ c ∈ resets, isCommandCode c = false

end Sys2Proof.Machine
end

