-- ==== Sys2Proof/Syntax.lean ====
section
/-! DEFINITION. The host words and the instructions they stand for: one constructor of `Instr` per mnemonic of
spec/opcode_table.json. The thirty RDNV rows, the thirty WRNV rows, the UNK rows and the codes of `RESET_CODES` differ in
bits of the word only, so each group is one constructor with those bits as its operand. -/

namespace Sys2Proof

/-- The address tag of a host word (spec/30_encoding.md R97); its polarity stands in the 9-bit encoding only. -/
inductive Tag where
  | cmd
  | data
  deriving DecidableEq, Repr

/-- A host-to-controller word: the byte and its address tag (R95). -/
structure HostWord where
  tag : Tag
  byte : Byte
  deriving DecidableEq, Repr

/-- The pending-command state (spec/10_state.md R40). It is the mode a host word is decoded under (R98). -/
inductive Pending where
  | none
  | awaitingConfigByte
  | awaitingOutputPort
  | awaitingPrimaryOutputByte
  | awaitingAuxOutputByte
  | awaitingAuxDeviceByte
  | awaitingStoreWrite (a : StorageAddr)
  deriving DecidableEq, Repr

/-- What one host word can mean. The first group is the command port and `data` the data port, both with no pending command;
the `operand` group is the second word of a two-word command, whose tag is carried but never looked at (R260). The address of
`operandWrnv` is the one the pending state carries: it is an operand of the data phase (R261, R267), not bits of the word. -/
inductive Instr where
  | rdcfg
  | rdnv (a : StorageAddr)
  | wrcfg
  | wrnv (a : StorageAddr)
  | auxdis
  | auxen
  | auxtest
  | selftest
  | kbdtest
  | kbddis
  | kbden
  | rdinp
  | rdout
  | wrout
  | wrkbdob
  | wrauxob
  | wrauxdev
  | reset (c : Byte)
  | unk (c : Byte)
  | data (b : Byte)
  | operandWrcfg (t : Tag) (b : Byte)
  | operandWrout (t : Tag) (b : Byte)
  | operandWrkbdob (t : Tag) (b : Byte)
  | operandWrauxob (t : Tag) (b : Byte)
  | operandWrauxdev (t : Tag) (b : Byte)
  | operandWrnv (a : StorageAddr) (t : Tag) (b : Byte)
  deriving DecidableEq, Repr

/-- The pending state under which an instruction is read (the key `mode` of its row in spec/opcode_table.json). -/
def Instr.mode : Instr → Pending
  | .rdcfg | .rdnv _ | .wrcfg | .wrnv _ | .auxdis | .auxen | .auxtest | .selftest | .kbdtest | .kbddis | .kbden
  | .rdinp | .rdout | .wrout | .wrkbdob | .wrauxob | .wrauxdev | .reset _ | .unk _ | .data _ => .none
  | .operandWrcfg _ _ => .awaitingConfigByte
  | .operandWrout _ _ => .awaitingOutputPort
  | .operandWrkbdob _ _ => .awaitingPrimaryOutputByte
  | .operandWrauxob _ _ => .awaitingAuxOutputByte
  | .operandWrauxdev _ _ => .awaitingAuxDeviceByte
  | .operandWrnv a _ _ => .awaitingStoreWrite a

end Sys2Proof
end

