-- ==== Sys2Proof/WellFormed.lean ====
section
/-! DEFINITION. Which instruction terms and which pending states stand for something the hardware has. -/

namespace Sys2Proof

/-- A pending state carries an address of the non-volatile store only (spec/10_state.md R40). -/
def Pending.wf : Pending → Bool
  | .awaitingStoreWrite a => Machine.isNvAddr a
  | .none | .awaitingConfigByte | .awaitingOutputPort | .awaitingPrimaryOutputByte | .awaitingAuxOutputByte
  | .awaitingAuxDeviceByte => true

/-- The checks an instruction term must pass: storage addresses 1 to 30 (R212, R214, R267), a reset code of the
machine's `RESET_CODES` (R228, R11), an unknown code that the command map does not define (R229). -/
def Instr.wf (resets : List Byte) : Instr → Bool
  | .rdnv a => Machine.isNvAddr a
  | .wrnv a => Machine.isNvAddr a
  | .reset c => resets.contains c && !Machine.isCommandCode c
  | .unk c => !Machine.isCommandCode c && !resets.contains c
  | .operandWrnv a _ _ => Machine.isNvAddr a
  | .rdcfg | .wrcfg | .auxdis | .auxen | .auxtest | .selftest | .kbdtest | .kbddis | .kbden | .rdinp | .rdout | .wrout
  | .wrkbdob | .wrauxob | .wrauxdev | .data _ | .operandWrcfg _ _ | .operandWrout _ _ | .operandWrkbdob _ _
  | .operandWrauxob _ _ | .operandWrauxdev _ _ => true

end Sys2Proof
end

