-- ==== Sys2Proof/Decode.lean ====
section
/-! DEFINITION. Decoding of host words (spec/30_encoding.md R95 to R104, spec/44_commands.md R210,
spec/45_data_phase_and_scheduler.md R260) and the encoder beside it. -/

namespace Sys2Proof

open Machine

/-- The instruction a command code selects when nothing is pending, on a machine with these `RESET_CODES` (R210, R11). -/
def decodeCommand (resets : List Byte) (c : Byte) : Instr :=
  if c = codeReadWindow then .rdcfg
  else if 0x21#8 ≤ c ∧ c ≤ 0x3E#8 then .rdnv (codeAddr c)
  else if c = codeWriteWindow then .wrcfg
  else if 0x61#8 ≤ c ∧ c ≤ 0x7E#8 then .wrnv (codeAddr c)
  else if c = codeAuxdis then .auxdis
  else if c = codeAuxen then .auxen
  else if c = codeAuxtest then .auxtest
  else if c = codeSelftest then .selftest
  else if c = codeKbdtest then .kbdtest
  else if c = codeKbddis then .kbddis
  else if c = codeKbden then .kbden
  else if c = codeRdinp then .rdinp
  else if c = codeRdout then .rdout
  else if c = codeWrout then .wrout
  else if c = codeWrkbdob then .wrkbdob
  else if c = codeWrauxob then .wrauxob
  else if c = codeWrauxdev then .wrauxdev
  else if resets.contains c then .reset c
  else .unk c

/-- The instruction a host word stands for under a pending state (R98, R260): with a command pending the word is its operand
whatever the tag; otherwise the tag selects the port. -/
def decode (resets : List Byte) (m : Pending) (w : HostWord) : Instr :=
  match m with
  | .awaitingConfigByte => .operandWrcfg w.tag w.byte
  | .awaitingOutputPort => .operandWrout w.tag w.byte
  | .awaitingPrimaryOutputByte => .operandWrkbdob w.tag w.byte
  | .awaitingAuxOutputByte => .operandWrauxob w.tag w.byte
  | .awaitingAuxDeviceByte => .operandWrauxdev w.tag w.byte
  | .awaitingStoreWrite a => .operandWrnv a w.tag w.byte
  | .none =>
    match w.tag with
    | .cmd => decodeCommand resets w.byte
    | .data => .data w.byte

/-- The tag bit of a host word: 1 for the command port (R97). PRESUMED polarity (G3, D17), log 8. -/
def Tag.toBit : Tag → BitVec 1
  | .cmd => 1#1
  | .data => 0#1

/-- The tag a bit stands for (R97). -/
def Tag.ofBit (b : BitVec 1) : Tag := if b = 1#1 then .cmd else .data

/-- The 9 bits of a host word, `tag` above `byte` (R95). -/
def HostWord.toBits (w : HostWord) : BitVec 9 := w.tag.toBit ++ w.byte

/-- The host word 9 bits stand for (R95). -/
def HostWord.ofBits (v : BitVec 9) : HostWord :=
  { tag := Tag.ofBit (v.extractLsb' 8 1), byte := v.extractLsb' 0 8 }

/-- Why bytes are no host word. -/
inductive DecodeError where
  /-- not exactly the two bytes that hold 9 bits -/
  | notTwoBytes
  /-- a bit above the tag bit is set -/
  | bitsAboveTag
  deriving DecidableEq, Repr

/-- Decoding from bytes, total: the 9 bits of a host word in two bytes, the low one first, as spec/opcode_table.json numbers
them. Anything else is rejected by name. -/
def decodeBytes (resets : List Byte) (m : Pending) : List Byte → Except DecodeError Instr
  | [lo, hi] =>
    if hi.extractLsb' 1 7 = 0#7 then
      .ok (decode resets m (HostWord.ofBits (hi.extractLsb' 0 1 ++ lo)))
    else .error .bitsAboveTag
  | _ => .error .notTwoBytes

/-- The byte of an instruction's host word (R104 read from right to left). -/
def encodeByte : Instr → Byte
  | .rdcfg => codeReadWindow
  | .rdnv a => windowCode codeReadWindow a
  | .wrcfg => codeWriteWindow
  | .wrnv a => windowCode codeWriteWindow a
  | .auxdis => codeAuxdis
  | .auxen => codeAuxen
  | .auxtest => codeAuxtest
  | .selftest => codeSelftest
  | .kbdtest => codeKbdtest
  | .kbddis => codeKbddis
  | .kbden => codeKbden
  | .rdinp => codeRdinp
  | .rdout => codeRdout
  | .wrout => codeWrout
  | .wrkbdob => codeWrkbdob
  | .wrauxob => codeWrauxob
  | .wrauxdev => codeWrauxdev
  | .reset c => c
  | .unk c => c
  | .data b => b
  | .operandWrcfg _ b => b
  | .operandWrout _ b => b
  | .operandWrkbdob _ b => b
  | .operandWrauxob _ b => b
  | .operandWrauxdev _ b => b
  | .operandWrnv _ _ b => b

/-- The tag of an instruction's host word. -/
def encodeTag : Instr → Tag
  | .data _ => .data
  | .operandWrcfg t _ | .operandWrout t _ | .operandWrkbdob t _ | .operandWrauxob t _ | .operandWrauxdev t _
  | .operandWrnv _ t _ => t
  | .rdcfg | .rdnv _ | .wrcfg | .wrnv _ | .auxdis | .auxen | .auxtest | .selftest | .kbdtest | .kbddis | .kbden
  | .rdinp | .rdout | .wrout | .wrkbdob | .wrauxob | .wrauxdev | .reset _ | .unk _ => .cmd

/-- The host word of an instruction; it is read back under `i.mode`. -/
def encode (i : Instr) : HostWord := { tag := encodeTag i, byte := encodeByte i }

/-- A host word as two bytes, the low one first. -/
def HostWord.toBytes (w : HostWord) : List Byte := [w.byte, w.tag.toBit.setWidth 8]

/-- The two bytes of a table word: bits 7..0, then bits 15..8. -/
def tableBytes (w : Nat) : List Byte := [BitVec.ofNat 8 w, BitVec.ofNat 8 (w >>> 8)]

/-- The instruction the decoder reads from a word numbered as spec/opcode_table.json numbers it: bit 8 is the tag, bits 7..0
the byte. Read with no command pending: the six OPERAND rows have no bits of their own (mask 0x000) and are selected by the
pending state alone, so their words are read here as the command or data word they equal (log 20). The table is written for the
default `RESET_CODES` (R104), which `State.reset` has. -/
def decodeTableWord (nbits w : Nat) : Option Instr :=
  if nbits ≤ 16 ∧ w < 2 ^ 16 then
    match decodeBytes defaultResetCodes .none (tableBytes w) with
    | .ok i => some i
    | .error _ => none
  else none

end Sys2Proof
end

