-- ==== Sys2Proof/Machine/Flags.lean ====
section
/-! DEFINITION. The one-bit quantities: the flags of the configuration register (spec/10_state.md R32, R36) and odd parity
(spec/30_encoding.md R92). -/

namespace Sys2Proof.Machine

/-! The six named flags of `cfg`. PRESUMED positions (the 8042 family's, G2, D16), log 7. Only bits 4 and 5 act (R38, R39). -/

def cfgKeyboardInterruptEnable : Nat := 0
def cfgAuxiliaryInterruptEnable : Nat := 1
def cfgSystemFlag : Nat := 2
def cfgKeyboardDisabled : Nat := 4
def cfgAuxiliaryDisabled : Nat := 5
def cfgScanCodeTranslate : Nat := 6

/-- Bit `i` of a byte. -/
def byteBit (b : Byte) (i : Nat) : Bool := b.getLsbD i

/-- A byte with bit `i` set. -/
def setByteBit (b : Byte) (i : Nat) : Byte := b ||| (1#8 <<< i)

/-- A byte with bit `i` cleared. -/
def clearByteBit (b : Byte) (i : Nat) : Byte := b &&& ~~~(1#8 <<< i)

/-- One toggle of the running parity accumulator: exclusive or with the bit (R79, R145, R146, R162). -/
def toggleParity (parity bit : Bool) : Bool := xor parity bit

/-- The accumulator after the eight data bits of `b`, from 0: A = D0 ^ ... ^ D7 (R92). -/
def dataParity (b : Byte) : Bool :=
  xor (byteBit b 0) (xor (byteBit b 1) (xor (byteBit b 2) (xor (byteBit b 3)
    (xor (byteBit b 4) (xor (byteBit b 5) (xor (byteBit b 6) (byteBit b 7)))))))

/-- The odd-parity bit of a frame carrying `b`: P = 1 ^ A (R92). -/
def parityBit (b : Byte) : Bool := !dataParity b

/-- The received sample enters at bit 7 and every earlier one moves a place down: `{d, v[7:1]}` (R145, D6). -/
def shiftInSample (d : Level) (v : Byte) : Byte := BitVec.ofBool d ++ v.extractLsb' 1 7

/-- Logical right shift by one, zero entering at bit 7 (R79, R162). -/
def shiftOutBit (v : Byte) : Byte := v >>> 1

end Sys2Proof.Machine
end

