-- ==== Sys2Proof/Machine/State.lean ====
section
/-! DEFINITION. Everything the spec gives the machine, as plain data (spec/10_state.md), and the state right after power-on. -/

namespace Sys2Proof.Machine

/-- Why the machine stops. The block itself never does (spec/60_exceptions.md R304). -/
inductive Fault where
  /-- Raised by an access to internal-storage address 31, which nothing backs (spec/20_memory.md R61). No host word decodes to
  such an access, so only an ill-formed instruction term meets it. Safe. -/
  | storageUnbacked
  deriving DecidableEq, Repr

/-- Why a move or an instruction has no meaning here. -/
inductive Refusal where
  /-- Raised by an arm of `exec` whose instruction has no meaning yet; there is none. Safe. -/
  | notModelled (mnemonic : String)
  /-- Raised by the host's write while `ibf` is true: the host has no such move (spec/43_host_bridge.md R198, D26, U9). Unsafe for
  a host that breaks this duty. -/
  | hostWriteWhileFull
  /-- Raised by `PumpOutput` on an empty outbound queue; the scheduler never calls it so (R193, D25, U14). Safe. -/
  | pumpOutputEmpty
  /-- Raised by `ReadInput` while `ibf` is false; the scheduler never calls it so (R196, D25, U14). Safe. -/
  | readInputNotReady
  deriving DecidableEq, Repr

/-- The two ports (R20). -/
inductive PortId where
  | pri
  | aux
  deriving DecidableEq, Repr

/-- The link state (R21). -/
inductive LinkState where
  | idle
  | receiving
  | transmitting
  | transmitAck
  deriving DecidableEq, Repr

/-- What the block does to a port's two open-drain lines, in order, with the busy-waits between (R160, R161). `true` drives low,
`false` releases. -/
inductive LineAction where
  | clk (low : Bool)
  | data (low : Bool)
  | wait (microseconds : Nat)
  deriving DecidableEq, Repr

/-- One Port record (R20 to R30). -/
structure Port where
  /-- `state` (R21) -/
  link : LinkState
  /-- `bit_count`, 0 to 10 (R22) -/
  bitCount : Nat
  shiftRegister : Byte
  txByte : Byte
  /-- one bit (R25, D32) -/
  runningParity : Bool
  /-- an unbounded natural (R27, D31) -/
  timeoutCounter : Nat
  inhibited : Bool
  clkDriveLow : Bool
  dataDriveLow : Bool
  /-- oldest first, at most 15 (R29, R125) -/
  receiveQueue : List Byte
  /-- oldest first, at most 15 (R29, R125) -/
  transmitQueue : List Byte
  /-- the model's own record, oldest first (log 26) -/
  lineLog : List LineAction
  deriving DecidableEq, Repr

/-- The observable events a rule emits (spec/00_scope.md section 5; R194, R197). -/
inductive Event where
  | hostLatch (byte : Byte) (isAux : Bool)
  | inputCleared
  deriving DecidableEq, Repr

/-- What the bridge does to its signals, in order (R190, R193, R196, R47). -/
inductive BusAction where
  | direction (input : Bool)
  | auxFlag (asserted : Bool)
  | drive (b : Byte)
  | outStrobe
  | latchEnable
  | wait (microseconds : Nat)
  | inClear
  deriving DecidableEq, Repr

/-- The eight atomic sub-steps of one scheduler pass (spec/45_data_phase_and_scheduler.md R280). -/
inductive SubStep where
  | txStartPri
  | timeoutPri
  | txStartAux
  | timeoutAux
  | forwardPri
  | forwardAux
  | pumpOutput
  | serviceInput
  deriving DecidableEq, Repr

/-- The moves an execution interleaves (R70): a clock edge with its sampled data level, a host write, a host read, application
of power, or one sub-step of the main loop. -/
inductive Move where
  | loop
  | edge (p : PortId) (d : Level)
  | hostWrite (t : Tag) (b : Byte)
  | hostRead
  | powerOn
  deriving DecidableEq, Repr

/-- The whole machine and the two external latches. -/
structure State where
  /-- `port[PRI]` -/
  pri : Port
  /-- `port[AUX]` -/
  aux : Port
  /-- Controller Configuration Register (R35) -/
  cfg : Byte
  /-- Pending-Command State (R40) -/
  pending : Pending
  /-- Non-volatile Byte Store, addresses 1 to 30 (R42): the cells that differ from `Config.nvInit`, addresses rising -/
  nv : List Host.Cell
  /-- host outbound queue, oldest first, at most 31 (R43) -/
  outq : List OutEntry
  /-- external input latch: full (R44) -/
  ibf : Bool
  /-- external input latch: the byte (R44) -/
  inByte : Byte
  /-- external input latch: the address tag (R44) -/
  inTag : Tag
  /-- external output latch, `none` for never written (R45) -/
  outLatch : Option OutEntry
  /-- the trace of observable events, oldest first (spec/00_scope.md section 5) -/
  trace : List Event
  /-- the model's own record of the bridge's signals, oldest first (log 26) -/
  busLog : List BusAction
  /-- the model's own record of what the host read, oldest first (R199, log 26) -/
  hostReads : List OutEntry
  /-- the sub-step of the pass that comes next (R280) -/
  phase : SubStep
  /-- the moves still to happen, next first; when empty the main loop goes on alone (log 1) -/
  agenda : List Move
  /-- how many free values have been drawn (log 14) -/
  freeCount : Nat
  /-- the parameter `RESET_CODES` of this machine (R11): configuration, which no step changes, held here because a step has no
  other argument (log 5) -/
  resetCodes : List Byte
  deriving DecidableEq, Repr

/-- A port right after power-on, given its disable bit of `CONFIG_RESET` (R49, R330). The shift register, the transmit byte
and the parity have no value in the spec: DESIGN CHOICE zero, log 11. -/
def Port.reset (disabled : Bool) : Port where
  link := .idle
  bitCount := 0
  shiftRegister := 0
  txByte := 0
  runningParity := false
  timeoutCounter := 0
  inhibited := disabled
  clkDriveLow := disabled
  dataDriveLow := false
  receiveQueue := []
  transmitQueue := []
  lineLog := []

/-- The machine right after the first power-on (R49, R330). -/
def State.reset : State where
  pri := Port.reset (byteBit Config.configReset cfgKeyboardDisabled)
  aux := Port.reset (byteBit Config.configReset cfgAuxiliaryDisabled)
  cfg := Config.configReset
  pending := .none
  nv := []
  outq := []
  ibf := false
  inByte := 0
  inTag := .data
  outLatch := none
  trace := []
  busLog := []
  hostReads := []
  phase := .txStartPri
  agenda := []
  freeCount := 0
  resetCodes := defaultResetCodes

end Sys2Proof.Machine
end

