-- ==== Sys2Proof/Machine/Ops.lean ====
section
/-! DEFINITION. The shared operations: bounded queues (spec/40_queue_ops.md), the byte store, the ports and their line drives,
the events, `Enqueue` and `SetInhibit`. The edge interrupt, the only one the block takes, is in Machine/Transceiver.lean. -/

namespace Sys2Proof.Machine

/-- What running something on the whole machine answers. -/
abbrev Result := Host.Outcome State Fault Refusal

/-! ### Bounded queues, as the list of their items, oldest first (R125) -/

/-- `IsEmpty(q)` (R121). -/
def Queue.isEmpty {α : Type} (q : List α) : Bool := q.isEmpty

/-- `IsFull(q)`: one slot always stays unused (R120, R122). -/
def Queue.isFull {α : Type} (slots : Nat) (q : List α) : Bool := decide (slots ≤ q.length + 1)

/-- `Push(q, v)`: the newest item is dropped when the queue is full (R123). -/
def Queue.push {α : Type} (slots : Nat) (q : List α) (v : α) : List α :=
  if Queue.isFull slots q then q else q ++ [v]

/-- `Pop(q)`: the oldest item and the rest, or the sentinel and no change (R124). -/
def Queue.pop {α : Type} (sentinel : α) : List α → α × List α
  | [] => (sentinel, [])
  | v :: rest => (v, rest)

/-- What draw number `n` leaves of a queue after a reset command, from item number `i` on: any sub-list (R332). -/
def Queue.drawFrom {α : Type} (n : Nat) : Nat → List α → List α
  | _, [] => []
  | i, v :: rest => if Config.freeKeep n i then v :: Queue.drawFrom n (i + 1) rest else Queue.drawFrom n (i + 1) rest

/-! ### The byte store: the cells that differ from `NV_INIT`, addresses strictly rising (log 15) -/

/-- What an unlisted address reads as (R46, D23). -/
def Memory.unlisted (a : Nat) : Byte := Config.nvInit a

/-- The byte at an address. -/
def Memory.read : List Host.Cell → Nat → Byte
  | [], a => Memory.unlisted a
  | (k, v) :: rest, a => if k = a then v else Memory.read rest a

/-- Puts a cell before the first one of a higher address. -/
def Memory.insertCell (a : Nat) (v : Byte) : List Host.Cell → List Host.Cell
  | [] => [(a, v)]
  | (k, w) :: rest => if a < k then (a, v) :: (k, w) :: rest else (k, w) :: Memory.insertCell a v rest

/-- Stores a byte at an address, keeping the canonical form: the value an unlisted address reads as is not listed. -/
def Memory.write (m : List Host.Cell) (a : Nat) (v : Byte) : List Host.Cell :=
  let others := m.filter (fun c => c.1 != a)
  if v = Memory.unlisted a then others else Memory.insertCell a v others

/-- The canonical form. -/
abbrev Memory.wf (m : List Host.Cell) : Prop :=
  m.Pairwise (fun x y => x.1 < y.1) ∧ ∀ c ∈ m, c.2 ≠ Memory.unlisted c.1

/-- Only the addresses 1 to 30 are listed (R42). -/
abbrev Memory.inStore (m : List Host.Cell) : Prop := ∀ c ∈ m, Config.nvLo ≤ c.1 ∧ c.1 ≤ Config.nvHi

/-! ### Ports and their lines -/

/-- `port[p]` (R20). -/
def State.port (s : State) : PortId → Port
  | .pri => s.pri
  | .aux => s.aux

/-- Writes the record of one port and touches nothing else (R20). -/
def State.setPort (s : State) (p : PortId) (P : Port) : State :=
  match p with
  | .pri => { s with pri := P }
  | .aux => { s with aux := P }

/-- Applies a port operation to one port. -/
def State.updPort (s : State) (p : PortId) (f : Port → Port) : State := s.setPort p (f (s.port p))

/-- Drives the clock line low or releases it; the last action persists (R30, D11). -/
def Port.driveClk (low : Bool) (P : Port) : Port :=
  { P with clkDriveLow := low, lineLog := P.lineLog ++ [.clk low] }

/-- Drives the data line low or releases it; the last action persists (R30, D11). -/
def Port.driveData (low : Bool) (P : Port) : Port :=
  { P with dataDriveLow := low, lineLog := P.lineLog ++ [.data low] }

/-- A busy-wait: it changes no state (R360), the record only. -/
def Port.busyWait (microseconds : Nat) (P : Port) : Port :=
  { P with lineLog := P.lineLog ++ [.wait microseconds] }

/-- `SetInhibit` on one port: the flag and the clock line, on every call (R175, D11). -/
def Port.setInhibit (v : Bool) (P : Port) : Port := Port.driveClk v { P with inhibited := v }

/-- `SetInhibit(p, v)` (R175). -/
def setInhibit (p : PortId) (v : Bool) (s : State) : State := s.updPort p (Port.setInhibit v)

/-- `Push` to a port's receive queue (R29, R123). -/
def Port.pushReceive (b : Byte) (P : Port) : Port :=
  { P with receiveQueue := Queue.push Config.ps2QueueSlots P.receiveQueue b }

/-- `Push` to a port's transmit queue (R29, R123). -/
def Port.pushTransmit (b : Byte) (P : Port) : Port :=
  { P with transmitQueue := Queue.push Config.ps2QueueSlots P.transmitQueue b }

/-- `Push(port[p].transmit_queue, b)` (R266, R268). -/
def pushTransmit (p : PortId) (b : Byte) (s : State) : State := s.updPort p (Port.pushTransmit b)

/-! ### Events, the outbound queue, the pending state -/

/-- `emit E` (spec/00_scope.md section 5). -/
def State.emit (s : State) (e : Event) : State := { s with trace := s.trace ++ [e] }

/-- Records signal actions of the bridge. -/
def State.signal (s : State) (l : List BusAction) : State := { s with busLog := s.busLog ++ l }

/-- `Enqueue(byte, is_aux)` (spec/43_host_bridge.md R191). -/
def enqueue (b : Byte) (isAux : Bool) (s : State) : State :=
  { s with outq := Queue.push Config.outQueueSlots s.outq (b, isAux) }

/-- The channel flag of a command's response. DESIGN CHOICE of the spec (D14), log 18. -/
def responseFlag : Bool := false

/-- Enqueues a command's response (spec/44_commands.md, "Common to every command rule"). -/
def respond (b : Byte) (s : State) : State := enqueue b responseFlag s

/-- Writes the pending-command state (R40). -/
def setPending (m : Pending) (s : State) : State := { s with pending := m }

/-- Continues with a state function where the first part answers a next state. -/
def mapNext {α β : Type} (f : α → β) : Host.Outcome α Fault Refusal → Host.Outcome β Fault Refusal
  | .next a => .next (f a)
  | .fault r => .fault r
  | .refused r => .refused r

end Sys2Proof.Machine
end

