-- ==== Sys2Proof/Machine/Bridge.lean ====
section
/-! DEFINITION. The Host Bus Bridge (spec/43_host_bridge.md), the forwarding task (spec/45_data_phase_and_scheduler.md R270) and
what the host does at the bridge. -/

namespace Sys2Proof.Machine

/-- `HasPendingOutput()` (R192). It says nothing about the output latch (R200). -/
def hasPendingOutput (s : State) : Bool := !Queue.isEmpty s.outq

/-- The external output latch captures an entry, and the host can see it (R193, R194). -/
def latchOutput (e : OutEntry) (s : State) : State :=
  ({ s with outLatch := some e }.signal [.auxFlag e.2, .drive e.1, .outStrobe]).emit (.hostLatch e.1 e.2)

/-- `PumpOutput()`: one transfer, whether or not the host has read the previous byte (R193, R200); no meaning on an empty
queue (D25). -/
def pumpOutput (s : State) : Result :=
  if hasPendingOutput s then
    let popped := Queue.pop Config.sentinelEntry s.outq
    .next (latchOutput popped.1 { s with outq := popped.2 })
  else .refused .pumpOutputEmpty

/-- `IsInputReady()`: the level of IBF (R195). -/
def isInputReady (s : State) : Bool := s.ibf

/-- The signals of `ReadInput`, in order (R196, R197): the bus is an input only between the first and the last (R47). -/
def readInputSignals : List BusAction :=
  [.direction true, .latchEnable, .wait Config.settle, .inClear, .direction false]

/-- The state `ReadInput` leaves: the latch cleared and `InputCleared` emitted (R196, R197). -/
def clearInput (s : State) : State := ({ s with ibf := false }.signal readInputSignals).emit .inputCleared

/-- `ReadInput()`: the latched byte with its tag (R196); no meaning while IBF is false (D25). -/
def readInput (s : State) : Host.Outcome (HostWord × State) Fault Refusal :=
  if isInputReady s then .next ({ tag := s.inTag, byte := s.inByte }, clearInput s)
  else .refused .readInputNotReady

/-- The channel flag of a port (R43, R270). -/
def channelFlag : PortId → Bool
  | .pri => false
  | .aux => true

/-- `Forward(p)`: at most one byte, unmodified (R271), popped even if the outbound queue then drops it (R270, R342). -/
def forward (p : PortId) (s : State) : State :=
  if Queue.isEmpty (s.port p).receiveQueue then s
  else
    let popped := Queue.pop Config.sentinelByte (s.port p).receiveQueue
    enqueue popped.1 (channelFlag p) (s.updPort p (fun P => { P with receiveQueue := popped.2 }))

/-- The host writes a byte to the command or the data port: byte, tag and IBF at once (R198). Only while IBF is false (D26). -/
def hostWrite (t : Tag) (b : Byte) (s : State) : Result :=
  if s.ibf then .refused .hostWriteWhileFull
  else .next { s with ibf := true, inByte := b, inTag := t }

/-- The host reads the output latch: the latest pair, or a free value if there has been none; no effect on the block (R199). -/
def hostRead (s : State) : State :=
  match s.outLatch with
  | some e => { s with hostReads := s.hostReads ++ [e] }
  | none => { s with hostReads := s.hostReads ++ [Config.freeEntry s.freeCount], freeCount := s.freeCount + 1 }

end Sys2Proof.Machine
end

