-- ==== Sys2Proof/Machine/Operands.lean ====
section
/-! DEFINITION. The operands of the commands: the internal storage space behind the two windows (spec/20_memory.md R61 to R64)
and the configuration register with its mirror (spec/10_state.md R38). The other operand, the byte of a data phase, is used
unmodified (spec/30_encoding.md R96, R99). -/

namespace Sys2Proof.Machine

/-- Writes the whole configuration register and mirrors both disable bits into their ports (R262, R38). -/
def writeCfg (v : Byte) (s : State) : State :=
  setInhibit .aux (byteBit v cfgAuxiliaryDisabled) (setInhibit .pri (byteBit v cfgKeyboardDisabled) { s with cfg := v })

/-- The disable bit of a port (R36, R38). -/
def disableBit : PortId → Nat
  | .pri => cfgKeyboardDisabled
  | .aux => cfgAuxiliaryDisabled

/-- Sets a port's disable bit and mirrors it (R215, R220). -/
def disableChannel (p : PortId) (s : State) : State :=
  setInhibit p true { s with cfg := setByteBit s.cfg (disableBit p) }

/-- Clears a port's disable bit and mirrors it (R216, R221). -/
def enableChannel (p : PortId) (s : State) : State :=
  setInhibit p false { s with cfg := clearByteBit s.cfg (disableBit p) }

/-- `MemRead(a, 1)` for a in 0..30 (R63); address 31 is not backed (R61). -/
def memRead (s : State) (a : StorageAddr) : Option Byte :=
  if a = 0 then some s.cfg
  else if isNvAddr a then some (Memory.read s.nv a.toNat)
  else none

/-- `MemWrite(a, 1, v)` for a in 0..30 (R64); address 31 is not backed (R61). -/
def memWrite (s : State) (a : StorageAddr) (v : Byte) : Option State :=
  if a = 0 then some (writeCfg v s)
  else if isNvAddr a then some { s with nv := Memory.write s.nv a.toNat v }
  else none

end Sys2Proof.Machine
end

