-- ==== Sys2Proof/Machine/Channel.lean ====
section
/-! DEFINITION. The channel enable and disable commands (spec/44_commands.md section 3). None of them responds. -/

namespace Sys2Proof.Machine

/-- `AUXDIS` (R215). -/
def execAuxdis (s : State) : Result := .next (disableChannel .aux s)

/-- `AUXEN` (R216). -/
def execAuxen (s : State) : Result := .next (enableChannel .aux s)

/-- `KBDDIS` (R220). -/
def execKbddis (s : State) : Result := .next (disableChannel .pri s)

/-- `KBDEN` (R221). -/
def execKbden (s : State) : Result := .next (enableChannel .pri s)

end Sys2Proof.Machine
end

