-- ==== Sys2Proof/Machine/Transceiver.lean ====
section
/-! DEFINITION. The PS/2 transceiver of one port: the edge handler (spec/41_transceiver_receive.md,
spec/42_transceiver_transmit.md), `TxStart` and `TimeoutStep`. Each operation is a function of the port's own record (R20, R75). -/

namespace Sys2Proof.Machine

/-! ### Receiving -/

/-- A start bit: the frame begins (R143, D5). -/
def Port.startReception (P : Port) : Port :=
  { P with link := .receiving, bitCount := 0, runningParity := false, shiftRegister := 0 }

/-- A data bit (R145). -/
def Port.receiveDataBit (d : Level) (P : Port) : Port :=
  { P with
    shiftRegister := shiftInSample d P.shiftRegister
    runningParity := toggleParity P.runningParity d
    bitCount := P.bitCount + 1 }

/-- The parity bit (R146). -/
def Port.receiveParityBit (d : Level) (P : Port) : Port :=
  { P with runningParity := toggleParity P.runningParity d, bitCount := 9 }

/-- Back to `Idle` with position 0 (R147, R165, D7). -/
def Port.toIdle (P : Port) : Port := { P with link := .idle, bitCount := 0 }

/-- The stop bit: the byte is accepted only if the stop bit reads high and the parity is odd; either way back to `Idle` (R147).
A framing error is silent (R300). -/
def Port.receiveStopBit (d : Level) (P : Port) : Port :=
  if d && P.runningParity then Port.toIdle (Port.pushReceive P.shiftRegister P) else Port.toIdle P

/-! ### Transmitting -/

/-- A data bit: 1 is sent by releasing the line, 0 by driving it low (R162, R93). -/
def Port.sendDataBit (P : Port) : Port :=
  let bit := byteBit P.txByte 0
  Port.driveData (!bit)
    { P with
      runningParity := toggleParity P.runningParity bit
      txByte := shiftOutBit P.txByte
      bitCount := P.bitCount + 1 }

/-- The parity bit, inverted relative to the accumulator (R163). -/
def Port.sendParityBit (P : Port) : Port := Port.driveData P.runningParity { P with bitCount := 9 }

/-- The stop bit and the entry to `TransmitAck` (R164, D8). -/
def Port.sendStopBit (P : Port) : Port := Port.driveData false { P with bitCount := 10, link := .transmitAck }

/-- The edge of the device's acknowledgment, which is not looked at (R165, R167). -/
def Port.endTransmission (P : Port) : Port := Port.driveData false (Port.toIdle P)

/-! ### The handler -/

/-- What a serviced edge does in each link state, after the timeout counter is cleared (R142 to R147, R162 to R165). -/
def Port.servicedEdge (d : Level) (P : Port) : Port :=
  match P.link with
  | .idle => if d then P else P.startReception
  | .receiving =>
    if P.bitCount < 8 then P.receiveDataBit d
    else if P.bitCount = 8 then P.receiveParityBit d
    else P.receiveStopBit d
  | .transmitting =>
    if P.bitCount < 8 then P.sendDataBit
    else if P.bitCount = 8 then P.sendParityBit
    else P.sendStopBit
  | .transmitAck => P.endTransmission

/-- `Edge(p, d)` on the port's record: ignored while inhibited (R141), otherwise serviced (R142). -/
def Port.edge (d : Level) (P : Port) : Port :=
  if P.inhibited then P else Port.servicedEdge d { P with timeoutCounter := 0 }

/-- `Edge(p, d)`, the edge interrupt: taken between two main-loop sub-steps, it saves nothing, has no vector but the port, runs
to completion as one atomic step and returns by finishing (R140, R305, R309, R310). -/
def edge (p : PortId) (d : Level) (s : State) : State := s.updPort p (Port.edge d)

/-! ### From the main loop -/

/-- The request-to-send handshake: clock low, hold, guard, data low (start bit), clock released (R160, R161). -/
def Port.requestToSend (P : Port) : Port :=
  Port.driveClk false (Port.driveData true
    (Port.busyWait Config.rtsGuard (Port.busyWait Config.rtsHold (Port.driveClk true P))))

/-- `TxStart(p)` on the port's record (R160). `inhibited` is not part of the condition (D10). -/
def Port.txStart (P : Port) : Port :=
  if P.link = .idle ∧ Queue.isEmpty P.transmitQueue = false then
    let popped := Queue.pop Config.sentinelByte P.transmitQueue
    { Port.requestToSend
        { P with txByte := popped.1, transmitQueue := popped.2, bitCount := 0, runningParity := false } with
      link := .transmitting }
  else P

/-- `TxStart(p)` (R160). -/
def txStart (p : PortId) (s : State) : State := s.updPort p Port.txStart

/-- Timeout recovery: both lines released, the frame abandoned, the counter cleared (R170, R301). -/
def Port.recover (P : Port) : Port :=
  { Port.toIdle (Port.driveData false (Port.driveClk false P)) with timeoutCounter := 0 }

/-- `TimeoutStep(p)` on the port's record (R170); "exceeds" is strict (D12). -/
def Port.timeoutStep (P : Port) : Port :=
  if P.link = .idle then P
  else if P.timeoutCounter + 1 > Config.timeoutThreshold then P.recover
  else { P with timeoutCounter := P.timeoutCounter + 1 }

/-- `TimeoutStep(p)` (R170). -/
def timeoutStep (p : PortId) (s : State) : State := s.updPort p Port.timeoutStep

end Sys2Proof.Machine
end

