-- ==== Sys2Proof/Machine/Reset.lean ====
section
/-! DEFINITION. The two resets (spec/70_reset_and_hazards.md R330 to R333; the values are spec/10_state.md R49's). -/

namespace Sys2Proof.Machine

/-- A port after the reset command, its inhibit already mirrored: the power-on link state, a frame in progress abandoned
(R331, R333, D22), the queues any sub-list of themselves (R332), the three unspecified registers free values (R49, U12).
`n` numbers the free values. -/
def Port.commandReset (n : Nat) (P : Port) : Port :=
  let Q := Port.driveData false (Port.toIdle P)
  { Q with
    timeoutCounter := 0
    receiveQueue := Queue.drawFrom n 0 P.receiveQueue
    transmitQueue := Queue.drawFrom (n + 1) 0 P.transmitQueue
    shiftRegister := Config.freeByte (n + 2)
    txByte := Config.freeByte (n + 3)
    runningParity := Config.freeBit (n + 4) }

/-- `CommandReset()` (R331). The store, the output latch and the input latch are not changed. -/
def commandReset (s : State) : State :=
  let t := writeCfg Config.configReset s
  { t with
    pri := t.pri.commandReset s.freeCount
    aux := t.aux.commandReset (s.freeCount + 5)
    outq := Queue.drawFrom (s.freeCount + 10) 0 s.outq
    pending := .none
    freeCount := s.freeCount + 11 }

/-- A port after power-on: its reset value, its line drives recorded (R49, R330, D33). -/
def Port.powerOn (disabled : Bool) (P : Port) : Port :=
  { Port.reset disabled with lineLog := P.lineLog ++ [.clk disabled, .data false] }

/-- `PowerOnReset()` later than the first: as `State.reset`, but the store keeps its contents (R46, R330), the input latch is the
environment's (R49), and the records and the environment's agenda go on. -/
def powerOnReset (s : State) : State :=
  { State.reset with
    pri := s.pri.powerOn (byteBit Config.configReset cfgKeyboardDisabled)
    aux := s.aux.powerOn (byteBit Config.configReset cfgAuxiliaryDisabled)
    nv := s.nv
    ibf := s.ibf
    inByte := s.inByte
    inTag := s.inTag
    trace := s.trace
    busLog := s.busLog
    hostReads := s.hostReads
    agenda := s.agenda
    freeCount := s.freeCount
    resetCodes := s.resetCodes }

end Sys2Proof.Machine
end

