-- ==== Sys2Proof/Machine/Control.lean ====
section
/-! DEFINITION. The reset command and the unknown codes (spec/44_commands.md section 7). -/

namespace Sys2Proof.Machine

/-- `RESET`, for every code of `RESET_CODES` (R228): the whole of `CommandReset`, in this step (D38). -/
def execReset (_c : Byte) (s : State) : Result := .next (commandReset s)

/-- `UNK`: no operation, the pending state left at None (R229, R303). -/
def execUnk (_c : Byte) (s : State) : Result := .next s

end Sys2Proof.Machine
end

