-- ==== Sys2Proof/Machine/DataPhase.lean ====
section
/-! DEFINITION. The data port and the second words of the two-word commands (spec/45_data_phase_and_scheduler.md R261 to R268).
Each data phase ends with the pending state at None (R260). -/

namespace Sys2Proof.Machine

/-- `DATA`: a byte for the primary device, whatever the keyboard-disabled bit (R268, D34). -/
def execData (b : Byte) (s : State) : Result := .next (pushTransmit .pri b s)

/-- Second word of `WRCFG`: all eight bits are stored, both disable bits mirrored (R262, R37). -/
def execOperandWrcfg (b : Byte) (s : State) : Result := .next (setPending .none (writeCfg b s))

/-- Second word of `WROUT`: discarded (R263). -/
def execOperandWrout (_b : Byte) (s : State) : Result := .next (setPending .none s)

/-- Second word of `WRKBDOB`: a synthetic byte of the primary channel (R264). -/
def execOperandWrkbdob (b : Byte) (s : State) : Result := .next (setPending .none (enqueue b false s))

/-- Second word of `WRAUXOB`: a synthetic byte of the auxiliary channel (R265). -/
def execOperandWrauxob (b : Byte) (s : State) : Result := .next (setPending .none (enqueue b true s))

/-- Second word of `WRAUXDEV`: a byte for the auxiliary device (R266). -/
def execOperandWrauxdev (b : Byte) (s : State) : Result := .next (setPending .none (pushTransmit .aux b s))

/-- Second word of `WRNV a`: the store is written at the pending address (R267, R64). The fault is address 31's, which no pending
state carries (R40, R61). -/
def execOperandWrnv (a : StorageAddr) (b : Byte) (s : State) : Result :=
  match memWrite s a b with
  | some t => .next (setPending .none t)
  | none => .fault .storageUnbacked

end Sys2Proof.Machine
end

