-- ==== Sys2Proof/Machine/Response.lean ====
section
/-! DEFINITION. The commands that answer with a fixed byte and change nothing else (spec/44_commands.md sections 4 and 5). -/

namespace Sys2Proof.Machine

/-- `AUXTEST`: the response is fixed, nothing is tested (R217). -/
def execAuxtest (s : State) : Result := .next (respond Config.ifTestPass s)

/-- `SELFTEST`: it is not a reset (R218). -/
def execSelftest (s : State) : Result := .next (respond Config.selfTestPass s)

/-- `KBDTEST`: the same code as `AUXTEST` (R219, D18). -/
def execKbdtest (s : State) : Result := .next (respond Config.ifTestPass s)

/-- `RDINP` (R222). -/
def execRdinp (s : State) : Result := .next (respond Config.inputPortValue s)

/-- `RDOUT`: independent of any earlier `WROUT` (R223). -/
def execRdout (s : State) : Result := .next (respond Config.outputPortValue s)

end Sys2Proof.Machine
end

