-- ==== Sys2Proof/Machine/Storage.lean ====
section
/-! DEFINITION. The commands of the internal storage windows (spec/44_commands.md section 2). -/

namespace Sys2Proof.Machine

/-- `RDCFG`: enqueues the configuration register as it is at this step (R211). -/
def execRdcfg (s : State) : Result := .next (respond s.cfg s)

/-- `RDNV a`: enqueues a byte of the store (R212, R63). The fault is address 31's, which no code of this command carries (R61). -/
def execRdnv (a : StorageAddr) (s : State) : Result :=
  match memRead s a with
  | some v => .next (respond v s)
  | none => .fault .storageUnbacked

/-- `WRCFG`: the next host byte is the new configuration (R213). -/
def execWrcfg (s : State) : Result := .next (setPending .awaitingConfigByte s)

/-- `WRNV a`: the next host byte is stored at `a` (R214). -/
def execWrnv (a : StorageAddr) (s : State) : Result := .next (setPending (.awaitingStoreWrite a) s)

end Sys2Proof.Machine
end

