-- ==== Sys2Proof/Machine/TwoWord.lean ====
section
/-! DEFINITION. The first words of the other two-word commands (spec/44_commands.md R224 to R227). -/

namespace Sys2Proof.Machine

/-- `WROUT` (R224). -/
def execWrout (s : State) : Result := .next (setPending .awaitingOutputPort s)

/-- `WRKBDOB` (R225). -/
def execWrkbdob (s : State) : Result := .next (setPending .awaitingPrimaryOutputByte s)

/-- `WRAUXOB` (R226). -/
def execWrauxob (s : State) : Result := .next (setPending .awaitingAuxOutputByte s)

/-- `WRAUXDEV`: the auxiliary-disabled bit is neither tested nor changed (R227). -/
def execWrauxdev (s : State) : Result := .next (setPending .awaitingAuxDeviceByte s)

end Sys2Proof.Machine
end

