-- ==== Sys2Proof/Machine/Dispatch.lean ====
section
/-! DEFINITION. Which meaning each instruction has: one arm per constructor of `Instr`. -/

namespace Sys2Proof.Machine

/-- The effect of one host word, read as an instruction. -/
def exec (i : Instr) (s : State) : Host.Outcome State Fault Refusal :=
  match i with
  -- internal storage windows
  | .rdcfg => Sys2Proof.Machine.execRdcfg s
  | .rdnv a => Sys2Proof.Machine.execRdnv a s
  | .wrcfg => Sys2Proof.Machine.execWrcfg s
  | .wrnv a => Sys2Proof.Machine.execWrnv a s
  -- channel enable and disable
  | .auxdis => Sys2Proof.Machine.execAuxdis s
  | .auxen => Sys2Proof.Machine.execAuxen s
  | .auxtest => Sys2Proof.Machine.execAuxtest s
  | .selftest => Sys2Proof.Machine.execSelftest s
  | .kbdtest => Sys2Proof.Machine.execKbdtest s
  | .kbddis => Sys2Proof.Machine.execKbddis s
  | .kbden => Sys2Proof.Machine.execKbden s
  -- input and output port
  | .rdinp => Sys2Proof.Machine.execRdinp s
  | .rdout => Sys2Proof.Machine.execRdout s
  | .wrout => Sys2Proof.Machine.execWrout s
  -- synthetic bytes and the auxiliary device
  | .wrkbdob => Sys2Proof.Machine.execWrkbdob s
  | .wrauxob => Sys2Proof.Machine.execWrauxob s
  | .wrauxdev => Sys2Proof.Machine.execWrauxdev s
  -- reset and unknown codes
  | .reset c => Sys2Proof.Machine.execReset c s
  | .unk c => Sys2Proof.Machine.execUnk c s
  -- data port and data phases
  | .data b => Sys2Proof.Machine.execData b s
  | .operandWrcfg _ b => Sys2Proof.Machine.execOperandWrcfg b s
  | .operandWrout _ b => Sys2Proof.Machine.execOperandWrout b s
  | .operandWrkbdob _ b => Sys2Proof.Machine.execOperandWrkbdob b s
  | .operandWrauxob _ b => Sys2Proof.Machine.execOperandWrauxob b s
  | .operandWrauxdev _ b => Sys2Proof.Machine.execOperandWrauxdev b s
  | .operandWrnv a _ b => Sys2Proof.Machine.execOperandWrnv a b s

end Sys2Proof.Machine
end

