-- ==== Sys2Proof/Machine/Scheduler.lean ====
section
/-! DEFINITION. The host-byte dispatch and the scheduler pass (spec/45_data_phase_and_scheduler.md), and how the environment's
moves interleave with it (spec/20_memory.md R70). -/

namespace Sys2Proof.Machine

/-- `Dispatch(t, b)` (R260): the word is read under the pending state and run. -/
def dispatch (w : HostWord) (s : State) : Result := exec (decode s.resetCodes s.pending w) s

/-- `ServiceInput()`: the read and the dispatch, one atomic step (R281, D3). -/
def serviceInput (s : State) : Result :=
  if isInputReady s then
    match readInput s with
    | .next (w, t) => dispatch w t
    | .fault r => .fault r
    | .refused r => .refused r
  else .next s

/-- The order of the sub-steps in a pass, and the next pass after the last (R280; the order inside the first two groups is D4's,
log 3). -/
def SubStep.succ : SubStep → SubStep
  | .txStartPri => .timeoutPri
  | .timeoutPri => .txStartAux
  | .txStartAux => .timeoutAux
  | .timeoutAux => .forwardPri
  | .forwardPri => .forwardAux
  | .forwardAux => .pumpOutput
  | .pumpOutput => .serviceInput
  | .serviceInput => .txStartPri

/-- The work of one sub-step (R280). -/
def subStepWork (k : SubStep) (s : State) : Result :=
  match k with
  | .txStartPri => .next (txStart .pri s)
  | .timeoutPri => .next (timeoutStep .pri s)
  | .txStartAux => .next (txStart .aux s)
  | .timeoutAux => .next (timeoutStep .aux s)
  | .forwardPri => .next (forward .pri s)
  | .forwardAux => .next (forward .aux s)
  | .pumpOutput => if hasPendingOutput s then pumpOutput s else .next s
  | .serviceInput => serviceInput s

/-- The main loop moves on to the sub-step after `k`. -/
def State.setPhase (k : SubStep) (s : State) : State := { s with phase := k }

/-- One atomic main-loop sub-step: the one whose turn it is (R70, R280). -/
def loopStep (s : State) : Result := mapNext (State.setPhase s.phase.succ) (subStepWork s.phase s)

/-- One move of an execution (R70). -/
def runMove (m : Move) (s : State) : Result :=
  match m with
  | .loop => loopStep s
  | .edge p d => .next (edge p d s)
  | .hostWrite t b => hostWrite t b s
  | .hostRead => .next (hostRead s)
  | .powerOn => .next (powerOnReset s)

/-- The next move and the rest of the agenda; with an empty agenda the main loop goes on (log 1). -/
def nextMove (s : State) : Move × State :=
  match s.agenda with
  | [] => (.loop, s)
  | m :: rest => (m, { s with agenda := rest })

end Sys2Proof.Machine
end

