-- ==== Sys2Proof/Machine/Step.lean ====
section
/-! DEFINITION. One step of the machine, and where its next host word is placed. -/

namespace Sys2Proof.Machine

/-- One atomic step: the next move of the agenda, or one sub-step of the main loop (spec/20_memory.md R70). -/
def step (s : State) : Host.Outcome State Fault Refusal := runMove (nextMove s).1 (nextMove s).2

/-- The state with a host word, numbered as spec/opcode_table.json numbers it, latched in the external input latch, and the main
loop about to service it (log 21). The pending state, which is the mode the word is read under, stays. -/
def State.withFetchWord (s : State) (_nbits w : Nat) : State :=
  { s with
    ibf := true
    inByte := BitVec.ofNat 8 w
    inTag := Tag.ofBit (BitVec.ofNat 1 (w >>> 8))
    phase := .serviceInput
    agenda := .loop :: s.agenda }

end Sys2Proof.Machine
end

