-- ==== Sys2Proof/Machine/Ring.lean ====
section
/-! DEFINITION. The circular buffer of a Bounded Queue, slot by slot (spec/40_queue_ops.md R120, R123, R124, R128). State holds
queues as the list of their items, as R125 allows; this is the form the document describes, for the statements that the two
behave alike (log 9). -/

namespace Sys2Proof.Machine

/-- Slots `buf[0..N-1]` and the index pair: `head` is the next slot to write, `tail` the next to read (R120). -/
structure RingBuffer (α : Type) where
  buf : List α
  head : Nat
  tail : Nat
  deriving DecidableEq, Repr

/-- N, the number of slots. -/
def RingBuffer.slots {α : Type} (q : RingBuffer α) : Nat := q.buf.length

/-- Both indices lie in 0..N-1 (R120, R128). -/
abbrev RingBuffer.wf {α : Type} (q : RingBuffer α) : Prop := q.head < q.slots ∧ q.tail < q.slots

/-- The index after `i`, modulo N (R128). -/
def RingBuffer.succ {α : Type} (q : RingBuffer α) (i : Nat) : Nat := (i + 1) % q.slots

/-- `head == tail` (R121). -/
def RingBuffer.isEmpty {α : Type} (q : RingBuffer α) : Bool := decide (q.head = q.tail)

/-- `(head+1) mod N == tail` (R122). -/
def RingBuffer.isFull {α : Type} (q : RingBuffer α) : Bool := decide (q.succ q.head = q.tail)

/-- `Push(q, v)`, the pseudocode of R123. -/
def RingBuffer.push {α : Type} (q : RingBuffer α) (v : α) : RingBuffer α :=
  if q.isFull then q else { q with buf := q.buf.set q.head v, head := q.succ q.head }

/-- `Pop(q)`, the pseudocode of R124. -/
def RingBuffer.pop {α : Type} (sentinel : α) (q : RingBuffer α) : α × RingBuffer α :=
  if q.isEmpty then (sentinel, q) else (q.buf.getD q.tail sentinel, { q with tail := q.succ q.tail })

/-- `len(q) = (head - tail) mod N` (R125). -/
def RingBuffer.len {α : Type} (q : RingBuffer α) : Nat := (q.head + q.slots - q.tail) % q.slots

/-- `items(q) = [buf[tail], ..., buf[(head-1) mod N]]`, oldest first (R125). -/
def RingBuffer.items {α : Type} (sentinel : α) (q : RingBuffer α) : List α :=
  (List.range q.len).map (fun k => q.buf.getD ((q.tail + k) % q.slots) sentinel)

end Sys2Proof.Machine
end

