-- ==== Sys2Proof/Machine/Frames.lean ====
section
/-! DEFINITION. The PS/2 frame on the wire (spec/30_encoding.md R90 to R92) and the words of stimulus scripts (R103), as moves of
the environment and of the main loop. -/

namespace Sys2Proof.Machine

/-- The eight data bits of a byte, least significant first (R65, R90). -/
def dataBits (b : Byte) : List Level :=
  [byteBit b 0, byteBit b 1, byteBit b 2, byteBit b 3, byteBit b 4, byteBit b 5, byteBit b 6, byteBit b 7]

/-- A frame of eleven bits carrying `b`: start 0, the data bits, odd parity, stop 1 (R90). The levels of a frame in the other
direction are the same (R91, R92, R166). -/
def frame (b : Byte) : List Level := [false] ++ dataBits b ++ [parityBit b, true]

/-- `HC xx` (R103). -/
def scriptHC (b : Byte) : List Move := [.hostWrite .cmd b]

/-- `HD xx` (R103). -/
def scriptHD (b : Byte) : List Move := [.hostWrite .data b]

/-- `PASS`: the eight sub-steps (R103, R280). -/
def scriptPass : List Move := List.replicate 8 .loop

/-- `EDGE p d` (R103). -/
def scriptEdge (p : PortId) (d : Level) : List Move := [.edge p d]

/-- `RXFRAME p xx`: the eleven edges of a well-formed frame carrying xx (R103). -/
def scriptRxFrame (p : PortId) (b : Byte) : List Move := (frame b).map (.edge p)

/-- `TXCLK p`: ten edges with data high, then one low, by which a device clocks in a frame (R103). -/
def scriptTxClk (p : PortId) : List Move := List.replicate 10 (.edge p true) ++ [.edge p false]

end Sys2Proof.Machine
end

