-- ==== Sys2Proof/Safety.lean ====
section
/-! DEFINITION. What a legal state is: the relations between fields that every rule keeps, and the host's one duty. -/

namespace Sys2Proof.Machine

/-- The frame sequencer is at one of the 22 pairs of spec/10_state.md R26. -/
abbrev Port.sequencerOk (P : Port) : Prop :=
  (P.link = .idle ∧ P.bitCount = 0) ∨ (P.link = .receiving ∧ P.bitCount ≤ 9) ∨
    (P.link = .transmitting ∧ P.bitCount ≤ 9) ∨ (P.link = .transmitAck ∧ P.bitCount = 10)

/-- Both queues hold at most 15 bytes (spec/40_queue_ops.md R126). -/
abbrev Port.queuesOk (P : Port) : Prop :=
  P.receiveQueue.length < Config.ps2QueueSlots ∧ P.transmitQueue.length < Config.ps2QueueSlots

/-- The timeout counter is at most the threshold between steps, and 0 in `Idle` (R27, D13). -/
abbrev Port.timeoutOk (P : Port) : Prop :=
  P.timeoutCounter ≤ Config.timeoutThreshold ∧ (P.link = .idle → P.timeoutCounter = 0)

/-- The clock is driven low only on an inhibited port (the other direction fails after a timeout, R177), and outside a
transmission the data line is released (R150, R166). -/
abbrev Port.linesOk (P : Port) : Prop :=
  (P.clkDriveLow = true → P.inhibited = true) ∧
    (P.link = .idle ∨ P.link = .receiving → P.dataDriveLow = false)

/-- A legal port record. -/
abbrev Port.Inv (P : Port) : Prop := P.sequencerOk ∧ P.queuesOk ∧ P.timeoutOk ∧ P.linesOk

/-- The mirror invariant (R38). -/
abbrev State.mirror (s : State) : Prop :=
  s.pri.inhibited = byteBit s.cfg cfgKeyboardDisabled ∧ s.aux.inhibited = byteBit s.cfg cfgAuxiliaryDisabled

/-- The HostLatch events of the trace, in order (R194). -/
def State.latches (s : State) : List OutEntry :=
  s.trace.filterMap fun
    | .hostLatch b a => some (b, a)
    | .inputCleared => none

/-- A written output latch holds the argument of the last HostLatch event (R45). -/
abbrev State.latchOk (s : State) : Prop := ∀ e, s.outLatch = some e → s.latches.getLast? = some e

/-- A legal state: every relation the spec states between the fields. -/
abbrev State.Inv (s : State) : Prop :=
  s.pri.Inv ∧ s.aux.Inv ∧ s.mirror ∧ s.pending.wf = true ∧ Memory.wf s.nv ∧ Memory.inStore s.nv ∧
    s.outq.length < Config.outQueueSlots ∧ s.latchOk

/-- The host's duty: its next move is no write while the input latch is full (R198, R334, D26). -/
abbrev State.hostDuty (s : State) : Prop :=
  s.ibf = true → ∀ t b, s.agenda.head? ≠ some (.hostWrite t b)

/-- `n` steps, stopping at the first stop. -/
def steps : Nat → State → Result
  | 0, s => .next s
  | n + 1, s =>
    match step s with
    | .next t => steps n t
    | .fault r => .fault r
    | .refused r => .refused r

/-- How many of the next `n` moves are main-loop sub-steps: those on the agenda, and every one after it (R70, log 1). -/
def State.loopMoves (n : Nat) (s : State) : Nat := (s.agenda.take n).count .loop + (n - s.agenda.length)

end Sys2Proof.Machine
end

