-- ==== Sys2Proof/Certificates/Slice0/Obligations.lean ====
section
/-! DEFINITION. The statements for the provers. Where a statement fixes something the document leaves open, its comment names
the spec's decision (D<n>, spec/92_eei_decisions.md) and the log entry. -/

open Sys2Proof Sys2Proof.Machine

/-! ### Words and instructions -/

/-- Words written out from the command map decode to their instructions (R104). Codes other than the document's seven are the
spec's own assignment (D15, log 6), so is that 0xFE resets, the table's default `RESET_CODES` (D19, log 5), that 0x7F is unknown
(D20, log 19) and the tag's polarity (D17, log 8). -/
def Obligations.ListedWordsDecode : Prop :=
  decodeTableWord 16 0x120 = some .rdcfg ∧ decodeTableWord 16 0x125 = some (.rdnv 5) ∧
  decodeTableWord 16 0x160 = some .wrcfg ∧ decodeTableWord 16 0x17E = some (.wrnv 30) ∧
  decodeTableWord 16 0x1A7 = some .auxdis ∧ decodeTableWord 16 0x1AA = some .selftest ∧
  decodeTableWord 16 0x1AD = some .kbddis ∧ decodeTableWord 16 0x1D0 = some .rdout ∧
  decodeTableWord 16 0x1D4 = some .wrauxdev ∧ decodeTableWord 16 0x1FE = some (.reset 0xFE) ∧
  decodeTableWord 16 0x17F = some (.unk 0x7F) ∧ decodeTableWord 16 0x0ED = some (.data 0xED) ∧
  decode defaultResetCodes (.awaitingStoreWrite 5) { tag := .cmd, byte := 0xAA } = .operandWrnv 5 .cmd 0xAA

/-- For every well-formed instruction, under the pending state that selects it, decoding its encoding gives it back, as a word and
as bytes, whatever `RESET_CODES` is (R95 to R98, R104, R11). -/
def Obligations.DecodeOfEncode : Prop :=
  ∀ (resets : List Byte) (i : Instr), i.wf resets = true →
    decode resets i.mode (encode i) = i ∧ decodeBytes resets i.mode (encode i).toBytes = .ok i

/-- Every host word under every legal pending state is one well-formed instruction of that mode, and encoding gives the word
back: no two instructions share a word, whatever `RESET_CODES` is (R98, R101, R210, R11). -/
def Obligations.EncodeOfDecode : Prop :=
  ∀ (resets : List Byte) (m : Pending) (w : HostWord), m.wf = true →
    (decode resets m w).wf resets = true ∧ (decode resets m w).mode = m ∧ encode (decode resets m w) = w

/-- When the input latch holds the word of a well-formed instruction and it is the main loop's turn to service input, a step reads
the latch and runs that instruction; the pass then starts over (R196, R260, R280, R281). -/
def Obligations.StepRunsDecodedInstruction : Prop :=
  ∀ (s : State) (i : Instr), s.phase = .serviceInput → s.ibf = true →
    (s.agenda = [] ∨ s.agenda.head? = some .loop) →
    decodeBytes s.resetCodes s.pending (HostWord.toBytes { tag := s.inTag, byte := s.inByte }) = .ok i →
    i.wf s.resetCodes = true →
    step s = mapNext (fun t => { t with phase := .txStartPri })
      (exec i { s with
          agenda := s.agenda.tail, ibf := false, trace := s.trace ++ [.inputCleared]
          busLog := s.busLog ++ [.direction true, .latchEnable, .wait Config.settle, .inClear, .direction false] })

/-- A word placed for fetching is run by the very next step, as the instruction it decodes to under the pending state; with nothing
pending and the default `RESET_CODES` that is the table word's instruction (placement: log 21; table words: log 20; the default: D19,
log 5). That words below 256 carry the data tag is the spec's polarity of the tag bit (R97), its D17 (log 8, PRESUMED). -/
def Obligations.FetchWordRunsNext : Prop :=
  ∀ (s : State) (n w : Nat), w < 512 →
    (∀ i : Instr, decodeBytes s.resetCodes s.pending (tableBytes w) = .ok i →
      step (s.withFetchWord n w) = mapNext (fun t => { t with phase := .txStartPri })
        (exec i { s with
            ibf := false, inByte := BitVec.ofNat 8 w, inTag := if w < 256 then .data else .cmd
            phase := .serviceInput, trace := s.trace ++ [.inputCleared]
            busLog := s.busLog ++ [.direction true, .latchEnable, .wait Config.settle, .inClear, .direction false] })) ∧
    ∃ i : Instr, decodeTableWord 16 w = some i ∧ decodeBytes defaultResetCodes .none (tableBytes w) = .ok i

/-! ### Commands -/

/-- An internal-storage read returns `cfg` at address 0 and the slot at addresses 1 to 30, and a command of the read window
enqueues that value at once and changes nothing else; the channel flag is left open here (R63). -/
def Obligations.StorageReadWindow : Prop :=
  ∀ s : State, memRead s 0 = some s.cfg ∧
    (∃ f, exec .rdcfg s = .next { s with outq := if s.outq.length < 31 then s.outq ++ [(s.cfg, f)] else s.outq }) ∧
    ∀ a : StorageAddr, 1 ≤ a.toNat → a.toNat ≤ 30 →
      memRead s a = some (Memory.read s.nv a.toNat) ∧
      ∃ f, exec (.rdnv a) s = .next { s with
        outq := if s.outq.length < 31 then s.outq ++ [(Memory.read s.nv a.toNat, f)] else s.outq }

/-- Address 31 of the internal storage space is backed by nothing: an access to it stops by name, and no host word decodes to one
(R61; that the codes 0x3F and 0x7F are unknown is the spec's decision D20, log 19). -/
def Obligations.AddressThirtyOneIsUnbacked : Prop :=
  (∀ (s : State) (t : Tag) (b : Byte), memRead s 31 = none ∧ memWrite s 31 b = none ∧
    exec (.rdnv 31) s = .fault .storageUnbacked ∧ exec (.operandWrnv 31 t b) s = .fault .storageUnbacked) ∧
  ∀ (resets : List Byte) (m : Pending) (w : HostWord), m.wf = true →
    decode resets m w ≠ .rdnv 31 ∧ decode resets m w ≠ .wrnv 31 ∧ ∀ t b, decode resets m w ≠ .operandWrnv 31 t b

/-- The seven commands that respond append exactly their byte, flagged primary, to the outbound queue, drop it when 31 entries
are held, and change nothing else (R211, R212, R217, R218, R219, R222, R223). The flag is the spec's decision D14 (log 18), one
code for both interface tests its D18 (log 4). -/
def Obligations.RespondingCommands : Prop :=
  Config.ifTestPass ≠ 0x55 ∧
  ∀ s : State,
    let answer : Byte → State := fun v =>
      { s with outq := if s.outq.length < 31 then s.outq ++ [(v, false)] else s.outq }
    exec .rdcfg s = .next (answer s.cfg) ∧
    (∀ a : StorageAddr, 1 ≤ a.toNat → a.toNat ≤ 30 → exec (.rdnv a) s = .next (answer (Memory.read s.nv a.toNat))) ∧
    exec .auxtest s = .next (answer Config.ifTestPass) ∧
    exec .selftest s = .next (answer 0x55) ∧
    exec .kbdtest s = .next (answer Config.ifTestPass) ∧
    exec .rdinp s = .next (answer Config.inputPortValue) ∧
    exec .rdout s = .next (answer Config.outputPortValue)

/-- The two commands of the write window: code 0x60 and codes 0x60 + a, a in 1..30, set their pending state and change nothing
else (R213, R214). That 0x7F is no code of this window but an unknown one is the spec's decision D20 (log 19). -/
def Obligations.WriteWindowSetsPending : Prop :=
  ((∀ resets, decodeCommand resets 0x60 = .wrcfg) ∧ ∀ s : State, exec .wrcfg s = .next { s with pending := .awaitingConfigByte }) ∧
  ∀ a : StorageAddr, 1 ≤ a.toNat → a.toNat ≤ 30 →
    (∀ resets, decodeCommand resets (0x60 + a.setWidth 8) = .wrnv a) ∧
    (∀ s : State, exec (.wrnv a) s = .next { s with pending := .awaitingStoreWrite a }) ∧
    ∀ resets : List Byte, 0x7F ∉ resets → decodeCommand resets 0x7F = .unk 0x7F

/-- The other two-word commands set their pending state and change nothing else (R224 to R227). Their codes are the spec's
assignment (D15, log 6). -/
def Obligations.TwoWordCommandsSetPending : Prop :=
  (∀ resets, decodeCommand resets 0xD1 = .wrout ∧ decodeCommand resets 0xD2 = .wrkbdob ∧
    decodeCommand resets 0xD3 = .wrauxob ∧ decodeCommand resets 0xD4 = .wrauxdev) ∧
  ∀ s : State,
    exec .wrout s = .next { s with pending := .awaitingOutputPort } ∧
    exec .wrkbdob s = .next { s with pending := .awaitingPrimaryOutputByte } ∧
    exec .wrauxob s = .next { s with pending := .awaitingAuxOutputByte } ∧
    exec .wrauxdev s = .next { s with pending := .awaitingAuxDeviceByte }

/-- The data phases of write output port, the two output-buffer commands and the store write: what each does with the byte, with
either tag, and that the pending state is then None and nothing else changes (R263, R264, R265, R267). -/
def Obligations.DataPhaseResults : Prop :=
  ∀ (s : State) (resets : List Byte) (t : Tag) (b : Byte),
    let enq : Bool → List OutEntry := fun f => if s.outq.length < 31 then s.outq ++ [(b, f)] else s.outq
    (decode resets .awaitingOutputPort { tag := t, byte := b } = .operandWrout t b ∧
      exec (.operandWrout t b) s = .next { s with pending := .none }) ∧
    (decode resets .awaitingPrimaryOutputByte { tag := t, byte := b } = .operandWrkbdob t b ∧
      exec (.operandWrkbdob t b) s = .next { s with pending := .none, outq := enq false }) ∧
    (decode resets .awaitingAuxOutputByte { tag := t, byte := b } = .operandWrauxob t b ∧
      exec (.operandWrauxob t b) s = .next { s with pending := .none, outq := enq true }) ∧
    ∀ a : StorageAddr, 1 ≤ a.toNat → a.toNat ≤ 30 →
      decode resets (.awaitingStoreWrite a) { tag := t, byte := b } = .operandWrnv a t b ∧
      ∃ m, exec (.operandWrnv a t b) s = .next { s with pending := .none, nv := m } ∧
        ∀ x, Memory.read m x = if x = a.toNat then b else Memory.read s.nv x

/-- Bytes for a device: the data port's byte goes to the primary transmit queue, the auxiliary-device byte to the auxiliary one,
dropped when 15 bytes are held, whatever the disable bits, and nothing else changes but the pending state of the second
(R266, R268; D34, log 31). -/
def Obligations.DeviceBytesAreQueued : Prop :=
  ∀ (s : State) (t : Tag) (b : Byte),
    exec (.data b) s = .next { s with pri := { s.pri with
      transmitQueue := if s.pri.transmitQueue.length < 15 then s.pri.transmitQueue ++ [b] else s.pri.transmitQueue } } ∧
    exec (.operandWrauxdev t b) s = .next { s with
      pending := .none
      aux := { s.aux with
        transmitQueue := if s.aux.transmitQueue.length < 15 then s.aux.transmitQueue ++ [b] else s.aux.transmitQueue } }

/-- The data phase of the configuration write stores all eight bits and mirrors both disable bits into the inhibit flags and the
clock lines; nothing else changes (R262, R37, R175). Bit positions 4 and 5 are the spec's (D16, log 7), the unconditional clock
writes its D11 (log 22). -/
def Obligations.ConfigWriteMirrorsInhibit : Prop :=
  ∀ (s : State) (t : Tag) (b : Byte),
    exec (.operandWrcfg t b) s = .next { s with
      pending := .none
      cfg := b
      pri := { s.pri with
        inhibited := b.getLsbD 4, clkDriveLow := b.getLsbD 4, lineLog := s.pri.lineLog ++ [.clk (b.getLsbD 4)] }
      aux := { s.aux with
        inhibited := b.getLsbD 5, clkDriveLow := b.getLsbD 5, lineLog := s.aux.lineLog ++ [.clk (b.getLsbD 5)] } }

/-- The four channel commands: the disable bit of the port, its inhibit flag and its clock line; every other bit of `cfg` and every
other field keeps its value (R215, R216, R220, R221, R175). Bit positions: D16 (log 7); clock writes: D11 (log 22). -/
def Obligations.ChannelCommands : Prop :=
  ∀ s : State,
    let setInh : Bool → Port → Port := fun v P =>
      { P with inhibited := v, clkDriveLow := v, lineLog := P.lineLog ++ [.clk v] }
    (∃ c, exec .auxdis s = .next { s with cfg := c, aux := setInh true s.aux } ∧
      ∀ i < 8, c.getLsbD i = if i = 5 then true else s.cfg.getLsbD i) ∧
    (∃ c, exec .auxen s = .next { s with cfg := c, aux := setInh false s.aux } ∧
      ∀ i < 8, c.getLsbD i = if i = 5 then false else s.cfg.getLsbD i) ∧
    (∃ c, exec .kbddis s = .next { s with cfg := c, pri := setInh true s.pri } ∧
      ∀ i < 8, c.getLsbD i = if i = 4 then true else s.cfg.getLsbD i) ∧
    ∃ c, exec .kbden s = .next { s with cfg := c, pri := setInh false s.pri } ∧
      ∀ i < 8, c.getLsbD i = if i = 4 then false else s.cfg.getLsbD i

/-- The reset command reloads `cfg`, clears the pending state, mirrors the disable bits, returns both ports to Idle with their
data line released, leaves of each of the five queues some sub-list, and keeps the store, both latches, the records, the place in
the pass and the agenda (R331, R332, R333, R46). What it does to the ports and the bound on the queues are the spec's
decision D22 (log 14), the two disable bits' positions its D16 (log 7), the clock writes its D11 (log 22), that the place in the pass
stays its D38 (log 35). The values of the three unspecified registers are left open. -/
def Obligations.ResetCommandResult : Prop :=
  ∀ (s : State) (c : Byte), ∃ t, exec (.reset c) s = .next t ∧
    t.cfg = Config.configReset ∧ t.pending = .none ∧
    t.pri.inhibited = Config.configReset.getLsbD 4 ∧ t.aux.inhibited = Config.configReset.getLsbD 5 ∧
    (∀ p : PortId, (t.port p).link = .idle ∧ (t.port p).bitCount = 0 ∧ (t.port p).timeoutCounter = 0 ∧
      (t.port p).clkDriveLow = (t.port p).inhibited ∧ (t.port p).dataDriveLow = false ∧
      (t.port p).lineLog = (s.port p).lineLog ++ [.clk (t.port p).inhibited, .data false] ∧
      (t.port p).receiveQueue.Sublist (s.port p).receiveQueue ∧
      (t.port p).transmitQueue.Sublist (s.port p).transmitQueue) ∧
    t.outq.Sublist s.outq ∧ t.nv = s.nv ∧ t.outLatch = s.outLatch ∧ t.ibf = s.ibf ∧ t.inByte = s.inByte ∧
    t.inTag = s.inTag ∧ t.trace = s.trace ∧ t.busLog = s.busLog ∧ t.hostReads = s.hostReads ∧ t.phase = s.phase ∧
    t.agenda = s.agenda ∧ t.resetCodes = s.resetCodes

/-- An unknown command code changes nothing. Every code of a legal `RESET_CODES` is a reset, and a code outside the rest of the
command map is a reset or unknown as the set says (R101, R104, R228, R229, R303, R11): with the default set {0xFE}, the spec's D19
(log 5), 0xF0 to 0xFD and 0xFF are unknown. That 0x3F and 0x7F stand outside the map is the spec's decision D20, that no further
code is known its D35 (log 19), where the single commands stand its D15 (log 6). -/
def Obligations.UnknownCodesDoNothing : Prop :=
  (∀ (c : Byte) (s : State), exec (.unk c) s = .next s) ∧
  (∀ resets : List Byte, resetCodesOk resets → ∀ c ∈ resets, decode resets .none { tag := .cmd, byte := c } = .reset c) ∧
  (∀ (resets : List Byte) (c : Byte), (c < 0x20 ∨ c = 0x3F ∨ (0x40 ≤ c ∧ c ≤ 0x5F) ∨ c = 0x7F ∨ (0x80 ≤ c ∧ c ≤ 0xA6) ∨
      c = 0xAC ∨ (0xAF ≤ c ∧ c ≤ 0xBF) ∨ (0xC1 ≤ c ∧ c ≤ 0xCF) ∨ 0xD5 ≤ c) →
    decode resets .none { tag := .cmd, byte := c } = if c ∈ resets then .reset c else .unk c) ∧
  ∀ c : Byte, (0xF0 ≤ c ∧ c ≤ 0xFD) ∨ c = 0xFF → decode defaultResetCodes .none { tag := .cmd, byte := c } = .unk c

/-- The dispatch of a host byte: under a pending state the byte is the data phase of that state, whatever its tag, and the pending
state is None afterwards; with nothing pending a command byte is dispatched by value and a data byte goes to the primary port's
transmit queue (R260). -/
def Obligations.HostByteDispatch : Prop :=
  ∀ (s : State) (b : Byte),
    (s.pending ≠ .none → s.pending.wf = true →
      ∃ i u, (∀ t, dispatch { tag := t, byte := b } s = .next u) ∧ u.pending = .none ∧
        exec i s = .next u ∧ i.mode = s.pending ∧ encodeByte i = b) ∧
    (s.pending = .none →
      dispatch { tag := .cmd, byte := b } s = exec (decodeCommand s.resetCodes b) s ∧
      dispatch { tag := .data, byte := b } s = .next { s with pri := { s.pri with
        transmitQueue := if s.pri.transmitQueue.length < 15 then s.pri.transmitQueue ++ [b] else s.pri.transmitQueue } })

/-- Any byte written to the configuration register is read back unchanged, the operand coming through either port (R37). -/
def Obligations.ConfigRoundTrip : Prop :=
  ∀ (s : State) (x : Byte) (t : Tag), s.pending = .none → s.outq.length < 31 →
    ∃ u v w f, dispatch { tag := .cmd, byte := 0x60 } s = .next u ∧ dispatch { tag := t, byte := x } u = .next v ∧
      dispatch { tag := .cmd, byte := 0x20 } v = .next w ∧ v.cfg = x ∧ w.outq = s.outq ++ [(x, f)] ∧ w.cfg = x ∧
      w.pending = .none

/-- The store round trip: for each n in 0..29, write command 0x61+n with data y, then read command 0x21+n enqueues y, and every
other slot keeps its byte (the document's property E7, R212, R214, R267). -/
def Obligations.StoreRoundTrip : Prop :=
  ∀ (s : State) (y : Byte) (t : Tag) (n : Nat), n < 30 → s.pending = .none → s.outq.length < 31 →
    ∃ u v w f, dispatch { tag := .cmd, byte := BitVec.ofNat 8 (0x61 + n) } s = .next u ∧
      dispatch { tag := t, byte := y } u = .next v ∧
      dispatch { tag := .cmd, byte := BitVec.ofNat 8 (0x21 + n) } v = .next w ∧ w.outq = s.outq ++ [(y, f)] ∧
      ∀ x, x ≠ n + 1 → Memory.read w.nv x = Memory.read s.nv x

/-- Command 0xAD makes the primary port ignore every edge until 0xAE, which makes its edges count again (the document's property
E5; R220, R221, R141). The clock line's value is the spec's decision D11 (log 22). -/
def Obligations.DisabledKeyboardIgnoresEdges : Prop :=
  ∀ (s : State) (ds : List Level), s.pending = .none →
    ∃ t u, dispatch { tag := .cmd, byte := 0xAD } s = .next t ∧
      ds.foldl (fun v d => edge .pri d v) t = t ∧
      dispatch { tag := .cmd, byte := 0xAE } (ds.foldl (fun v d => edge .pri d v) t) = .next u ∧
      u.pri.inhibited = false ∧ u.pri.clkDriveLow = false ∧ u.pri.receiveQueue = s.pri.receiveQueue

/-! ### The transceiver -/

/-- An inhibited port ignores its edges: nothing changes (R141). -/
def Obligations.InhibitedPortIgnoresEdge : Prop :=
  ∀ (s : State) (p : PortId) (d : Level) (rest : List Move), (s.port p).inhibited = true →
    edge p d s = s ∧ (s.agenda = .edge p d :: rest → step s = .next { s with agenda := rest })

/-- An edge event is one atomic step that runs the handler of its port and changes nothing else: the main loop goes on with the
sub-step whose turn it was (R70, R305, R309, R310; granularity: D3, log 2). -/
def Obligations.EdgeMoveRunsHandler : Prop :=
  ∀ (s : State) (p : PortId) (d : Level) (rest : List Move), s.agenda = .edge p d :: rest →
    step s = .next ({ s with agenda := rest }.setPort p ((edge p d s).port p))

/-- The parity positions of the two directions: on receive the sample is folded into the accumulator and the shift register keeps
its value; on transmit the inverted accumulator is put on the line and the accumulator keeps its value (R146, R163). A serviced edge
also clears the timeout counter. -/
def Obligations.ParityBitEdges : Prop :=
  ∀ (s : State) (p : PortId) (d : Level), (s.port p).inhibited = false → (s.port p).bitCount = 8 →
    ((s.port p).link = .receiving → edge p d s = s.setPort p { s.port p with
      timeoutCounter := 0, runningParity := xor (s.port p).runningParity d, bitCount := 9 }) ∧
    ((s.port p).link = .transmitting → edge p d s = s.setPort p { s.port p with
      timeoutCounter := 0, bitCount := 9, dataDriveLow := (s.port p).runningParity
      lineLog := (s.port p).lineLog ++ [.data (s.port p).runningParity] })

/-- The other receive edges: start bit, data bit, stop bit with acceptance (R142 to R145, R147). The decisions D5, D6, D7, D9 and
D40 of the spec are in it (log 24). -/
def Obligations.ReceiveEdges : Prop :=
  ∀ (s : State) (p : PortId) (d : Level), (s.port p).inhibited = false →
    ((s.port p).link = .idle → edge p d s = s.setPort p
      (if d then { s.port p with timeoutCounter := 0 }
        else { s.port p with
          timeoutCounter := 0, link := .receiving, bitCount := 0, runningParity := false, shiftRegister := 0 })) ∧
    ((s.port p).link = .receiving → (s.port p).bitCount < 8 → ∃ v : Byte,
      edge p d s = s.setPort p { s.port p with
        timeoutCounter := 0, shiftRegister := v, runningParity := xor (s.port p).runningParity d
        bitCount := (s.port p).bitCount + 1 } ∧
      v.getLsbD 7 = d ∧ ∀ i < 7, v.getLsbD i = (s.port p).shiftRegister.getLsbD (i + 1)) ∧
    ((s.port p).link = .receiving → (s.port p).bitCount = 9 → edge p d s = s.setPort p { s.port p with
      timeoutCounter := 0, link := .idle, bitCount := 0
      receiveQueue :=
        if d = true ∧ (s.port p).runningParity = true ∧ (s.port p).receiveQueue.length < 15 then
          (s.port p).receiveQueue ++ [(s.port p).shiftRegister]
        else (s.port p).receiveQueue })

/-- The other transmit edges: data bit, stop bit, acknowledgment (R162, R164, R165). The entry to TransmitAck at the stop bit is the
spec's decision D8 (log 23). -/
def Obligations.TransmitEdges : Prop :=
  ∀ (s : State) (p : PortId) (d : Level), (s.port p).inhibited = false →
    ((s.port p).link = .transmitting → (s.port p).bitCount < 8 → ∃ v : Byte,
      edge p d s = s.setPort p { s.port p with
        timeoutCounter := 0, txByte := v, bitCount := (s.port p).bitCount + 1
        runningParity := xor (s.port p).runningParity ((s.port p).txByte.getLsbD 0)
        dataDriveLow := !(s.port p).txByte.getLsbD 0
        lineLog := (s.port p).lineLog ++ [.data (!(s.port p).txByte.getLsbD 0)] } ∧
      v.getLsbD 7 = false ∧ ∀ i < 7, v.getLsbD i = (s.port p).txByte.getLsbD (i + 1)) ∧
    ((s.port p).link = .transmitting → (s.port p).bitCount = 9 → edge p d s = s.setPort p { s.port p with
      timeoutCounter := 0, bitCount := 10, link := .transmitAck, dataDriveLow := false
      lineLog := (s.port p).lineLog ++ [.data false] }) ∧
    ((s.port p).link = .transmitAck → edge p d s = s.setPort p { s.port p with
      timeoutCounter := 0, bitCount := 0, link := .idle, dataDriveLow := false
      lineLog := (s.port p).lineLog ++ [.data false] })

/-- The sampled data level is ignored in Transmitting and TransmitAck (R167). -/
def Obligations.TransmitIgnoresSample : Prop :=
  ∀ (s : State) (p : PortId), (s.port p).link = .transmitting ∨ (s.port p).link = .transmitAck →
    edge p true s = edge p false s

/-- The edge handler of a port writes that port's record only, and in it neither the inhibit flag, the clock line nor the transmit
queue; its receive queue keeps its items in front (R75, R20, R70). -/
def Obligations.EdgeWritesOwnPortOnly : Prop :=
  ∀ (s : State) (p : PortId) (d : Level), ∃ P : Port, edge p d s = s.setPort p P ∧
    P.inhibited = (s.port p).inhibited ∧ P.clkDriveLow = (s.port p).clkDriveLow ∧
    P.transmitQueue = (s.port p).transmitQueue ∧
    (P.receiveQueue = (s.port p).receiveQueue ∨
      P.receiveQueue = (s.port p).receiveQueue ++ [(s.port p).shiftRegister]) ∧
    ((s.port p).link = .idle ∨ (s.port p).link = .receiving →
      P.dataDriveLow = (s.port p).dataDriveLow ∧ P.lineLog = (s.port p).lineLog)

/-- Two edges that occur together on the two ports give the same state in either order (R308; D29, log 29). -/
def Obligations.EdgesOfTwoPortsCommute : Prop :=
  ∀ (s : State) (d e : Level), edge .pri d (edge .aux e s) = edge .aux e (edge .pri d s)

/-- Eleven serviced edges from Idle with samples s, d0..d7, q, t push the byte d0 + 2 d1 + ... + 128 d7 if and only if the start bit
is low, the stop bit high and the parity odd, and the queue has room; otherwise the receive queue keeps its contents
(R148, R90, R147). A high start bit does nothing and parity starts at 0 by the spec's decisions D40 and D5 (log 24). -/
def Obligations.FrameAcceptance : Prop :=
  ∀ (P : Port) (s d0 d1 d2 d3 d4 d5 d6 d7 q t : Level), P.link = .idle → P.inhibited = false →
    ([s, d0, d1, d2, d3, d4, d5, d6, d7, q, t].foldl (fun Q d => Port.edge d Q) P).receiveQueue =
      if s = false ∧ t = true ∧
          xor d0 (xor d1 (xor d2 (xor d3 (xor d4 (xor d5 (xor d6 (xor d7 q))))))) = true ∧ P.receiveQueue.length < 15 then
        P.receiveQueue ++ [BitVec.ofNat 8 (d0.toNat + 2 * d1.toNat + 4 * d2.toNat + 8 * d3.toNat + 16 * d4.toNat +
          32 * d5.toNat + 64 * d6.toNat + 128 * d7.toNat)]
      else P.receiveQueue

/-- The frame round trip, as a run of the machine: for every byte, the eleven edges of its frame on an idle port that is not
inhibited yield the byte unchanged on that port's receive queue and touch nothing outside the port (the document's property E2;
R90, R92, R143 to R147). The values left in the position and the shift register rest on the spec's D5, D6 and D7 (log 24). -/
def Obligations.FrameRoundTrip : Prop :=
  ∀ (s : State) (p : PortId) (b : Byte) (rest : List Move), (s.port p).link = .idle → (s.port p).inhibited = false →
    (s.port p).receiveQueue.length < 15 → s.agenda = (frame b).map (.edge p) ++ rest →
    steps 11 s = .next ({ s with agenda := rest }.setPort p { s.port p with
      bitCount := 0, timeoutCounter := 0, shiftRegister := b, runningParity := true
      receiveQueue := (s.port p).receiveQueue ++ [b] })

/-- A whole transmission: from TxStart with byte b, eleven serviced edges with any samples return the port to Idle, having put on
the data line the request to send (clock low, at least 100 microseconds, data low, clock released), the eight data bits, the parity
bit and the stop bit of b's frame, a 1 by releasing and a 0 by driving low (R91, R160, R161, R166).
That the eleventh edge ends it is the spec's decision D8 (log 23). -/
def Obligations.TransmissionSendsFrame : Prop :=
  100 ≤ Config.rtsHold ∧
  ∀ (P : Port) (b : Byte) (rest : List Byte) (ds : List Level), P.link = .idle → P.inhibited = false →
    P.transmitQueue = b :: rest → ds.length = 11 →
    ds.foldl (fun Q d => Port.edge d Q) P.txStart = { P with
      link := .idle, bitCount := 0, timeoutCounter := 0, txByte := 0, runningParity := dataParity b, transmitQueue := rest
      clkDriveLow := false, dataDriveLow := false
      lineLog := P.lineLog ++
        [.clk true, .wait Config.rtsHold, .wait Config.rtsGuard, .data true, .clk false] ++
        ((frame b).tail.map fun level => .data (!level)) ++ [.data false] }

/-- TxStart starts a transmission exactly when the port is Idle and its transmit queue is not empty, whether or not it is inhibited
(R160, R161; D3, D10, log 2, log 22). -/
def Obligations.TxStartResult : Prop :=
  ∀ (s : State) (p : PortId),
    ((s.port p).link ≠ .idle ∨ (s.port p).transmitQueue = [] → txStart p s = s) ∧
    ∀ b rest, (s.port p).link = .idle → (s.port p).transmitQueue = b :: rest →
      txStart p s = s.setPort p { s.port p with
        link := .transmitting, bitCount := 0, txByte := b, runningParity := false, transmitQueue := rest
        clkDriveLow := false, dataDriveLow := true
        lineLog := (s.port p).lineLog ++
          [.clk true, .wait Config.rtsHold, .wait Config.rtsGuard, .data true, .clk false] }

/-- TimeoutStep does nothing in Idle, counts otherwise, and past the threshold releases both lines, abandons the frame and clears the
counter, inhibited or not (R170; strict comparison: D12, log 16). -/
def Obligations.TimeoutStepResult : Prop :=
  ∀ (s : State) (p : PortId),
    ((s.port p).link = .idle → timeoutStep p s = s) ∧
    ((s.port p).link ≠ .idle → timeoutStep p s = s.setPort p
      (if (s.port p).timeoutCounter + 1 > Config.timeoutThreshold then { s.port p with
          link := .idle, bitCount := 0, timeoutCounter := 0, clkDriveLow := false, dataDriveLow := false
          lineLog := (s.port p).lineLog ++ [.clk false, .data false] }
        else { s.port p with timeoutCounter := (s.port p).timeoutCounter + 1 }))

/-- A port in a frame that gets no serviced edge is in service again at the (TIMEOUT_THRESHOLD + 1)th TimeoutStep after its last one,
and not before; its queues and its inhibit flag keep their values, and both lines are released even if it is inhibited
(R171, R177, R301). The exact count rests on the strict comparison, the spec's D12 (log 16), the release on an inhibited port on its
D11 (log 22). -/
def Obligations.StalledPortRecovers : Prop :=
  ∀ P : Port, P.link ≠ .idle → P.timeoutCounter = 0 →
    (∀ k, k ≤ Config.timeoutThreshold → Port.timeoutStep^[k] P = { P with timeoutCounter := k }) ∧
    Port.timeoutStep^[Config.timeoutThreshold + 1] P = { P with
      link := .idle, bitCount := 0, timeoutCounter := 0, clkDriveLow := false, dataDriveLow := false
      lineLog := P.lineLog ++ [.clk false, .data false] }

/-- A byte sent to a disabled channel is lost: TxStart pops it and releases the clock although the port is inhibited, every edge is
ignored, and the timeout ends the transmission with the byte gone (R178, R344, R176; D10, D11, log 22; the count of passes: D12,
log 16). -/
def Obligations.DisabledChannelLosesByte : Prop :=
  ∀ (P : Port) (b : Byte) (rest : List Byte) (ds : List Level), P.link = .idle → P.inhibited = true →
    P.timeoutCounter = 0 → P.transmitQueue = b :: rest →
    let Q := ds.foldl (fun R d => Port.edge d R) P.txStart
    Q = P.txStart ∧ Q.clkDriveLow = false ∧ Q.inhibited = true ∧ Q.link = .transmitting ∧
    (Port.timeoutStep^[Config.timeoutThreshold + 1] Q).link = .idle ∧
    (Port.timeoutStep^[Config.timeoutThreshold + 1] Q).transmitQueue = rest ∧
    (Port.timeoutStep^[Config.timeoutThreshold + 1] Q).receiveQueue = P.receiveQueue ∧
    (Port.timeoutStep^[Config.timeoutThreshold + 1] Q).clkDriveLow = false ∧
    (Port.timeoutStep^[Config.timeoutThreshold + 1] Q).inhibited = true

/-! ### Queues -/

/-- The circular buffer and the list of its items behave alike under every queue operation, the indices stay in range, and at most
N-1 items are held (R120 to R125, R128; the sentinel: D24, log 10). -/
def Obligations.RingRefinesList : Prop :=
  ∀ (α : Type) (d v : α) (q : RingBuffer α), q.wf →
    (q.items d).length < q.slots ∧
    q.isEmpty = Queue.isEmpty (q.items d) ∧ q.isFull = Queue.isFull q.slots (q.items d) ∧
    ((q.push v).wf ∧ (q.push v).slots = q.slots ∧ (q.push v).items d = Queue.push q.slots (q.items d) v) ∧
    ((q.pop d).2.wf ∧ (q.pop d).2.slots = q.slots ∧ (q.pop d).1 = (Queue.pop d (q.items d)).1 ∧
      (q.pop d).2.items d = (Queue.pop d (q.items d)).2)

/-- For any sequence of `Push` and `Pop` on an empty queue of capacity N, at most N-1 items are held, and what the pops that found
an item returned, followed by what is held, is exactly what the pushes that were not dropped pushed, in order; N pushes with no pop
keep the first N-1 (R127; the document's property E1). -/
def Obligations.QueueFifoAndCapacity : Prop :=
  ∀ (α : Type) (n : Nat) (d : α), 0 < n →
    (∀ ops : List (Option α),
      let r := ops.foldl (fun (r : List α × List α × List α) op =>
        match op with
        | some v => (Queue.push n r.1 v, if Queue.isFull n r.1 then r.2.1 else r.2.1 ++ [v], r.2.2)
        | none => ((Queue.pop d r.1).2, r.2.1,
            if Queue.isEmpty r.1 then r.2.2 else r.2.2 ++ [(Queue.pop d r.1).1])) ([], [], [])
      r.1.length ≤ n - 1 ∧ r.2.2 ++ r.1 = r.2.1) ∧
    ∀ vs : List α, vs.length = n → vs.foldl (Queue.push n) [] = vs.take (n - 1)

/-- The four queue operations on the list of items: Push appends unless N-1 items are held, Pop takes the oldest item or nothing
(R121, R122, R123, R124; the sentinel: D24, log 10). -/
def Obligations.QueueOperationResults : Prop :=
  ∀ (α : Type) (n : Nat) (d v : α) (q : List α),
    (Queue.isEmpty q = true ↔ q.length = 0) ∧
    (q.length < n → (Queue.isFull n q = true ↔ q.length = n - 1)) ∧
    (Queue.isFull n q = true → Queue.push n q v = q) ∧ (Queue.isFull n q = false → Queue.push n q v = q ++ [v]) ∧
    Queue.pop d [] = (d, []) ∧ Queue.pop d (v :: q) = (v, q)

/-! ### The bridge, the pass, the environment -/

/-- Enqueue pushes to the 32-slot outbound buffer, silently dropping when full, and changes nothing else (R191). -/
def Obligations.EnqueueResult : Prop :=
  ∀ (s : State) (b : Byte) (f : Bool),
    enqueue b f s = { s with outq := if s.outq.length < 31 then s.outq ++ [(b, f)] else s.outq } ∧
    (s.outq.length ≤ 31 → (enqueue b f s).outq.length ≤ 31)

/-- The pump latches the oldest entry, flag first, then the byte, then the strobe, and changes nothing else, whatever the latch held;
on an empty queue it has no meaning (R193, R194, R200; refusal: D25, log 25). -/
def Obligations.PumpOutputResult : Prop :=
  ∀ s : State,
    (∀ b f rest, s.outq = (b, f) :: rest → pumpOutput s = .next { s with
      outq := rest, outLatch := some (b, f), trace := s.trace ++ [.hostLatch b f]
      busLog := s.busLog ++ [.auxFlag f, .drive b, .outStrobe] }) ∧
    (s.outq = [] → pumpOutput s = .refused .pumpOutputEmpty)

/-- Reading the input latch gives byte and tag of one host write, clears IBF and emits InputCleared, the bus being an input only
inside; while IBF is false it has no meaning (R195, R196, R197, R47; refusal: D25, log 25). -/
def Obligations.ReadInputResult : Prop :=
  ∀ s : State,
    (s.ibf = true → readInput s = .next ({ tag := s.inTag, byte := s.inByte }, { s with
      ibf := false, trace := s.trace ++ [.inputCleared]
      busLog := s.busLog ++ [.direction true, .latchEnable, .wait Config.settle, .inClear, .direction false] })) ∧
    (s.ibf = false → readInput s = .refused .readInputNotReady ∧ serviceInput s = .next s)

/-- Forward moves the oldest received byte to the outbound queue with the port's channel flag, and pops it even when the outbound
queue then drops it; with an empty receive queue it does nothing (R270, R342). -/
def Obligations.ForwardResult : Prop :=
  ∀ (s : State) (p : PortId),
    ((s.port p).receiveQueue = [] → forward p s = s) ∧
    ∀ b rest, (s.port p).receiveQueue = b :: rest →
      forward p s = { s with
        outq := if s.outq.length < 31 then s.outq ++ [(b, decide (p = PortId.aux))] else s.outq }.setPort p
          { s.port p with receiveQueue := rest }

/-- No translation: what Forward enqueues is the byte received, for every value of the configuration register, its translate flag
included (R271). -/
def Obligations.ForwardIgnoresConfig : Prop :=
  ∀ (s : State) (p : PortId) (c : Byte),
    forward p { s with cfg := c } = { forward p s with cfg := c } ∧
    ∀ b rest, (s.port p).receiveQueue = b :: rest → s.outq.length < 31 →
      ∃ f, (forward p { s with cfg := c }).outq = s.outq ++ [(b, f)]

/-- The environment's moves at the bridge: a host write sets byte, tag and IBF at once, and is refused while IBF is true (R198; D26,
log 25); a host read records the latest pair, or some value if there has been none, and nothing of the block changes (R199). -/
def Obligations.HostMoves : Prop :=
  ∀ (s : State) (rest : List Move),
    (∀ t b, s.agenda = .hostWrite t b :: rest →
      (s.ibf = false → step s = .next { s with agenda := rest, ibf := true, inByte := b, inTag := t }) ∧
      (s.ibf = true → step s = .refused .hostWriteWhileFull)) ∧
    (s.agenda = .hostRead :: rest → ∃ e n, step s = .next { s with
      agenda := rest, hostReads := s.hostReads ++ [e], freeCount := n } ∧ ∀ x, s.outLatch = some x → e = x)

/-- One pass is the eight sub-steps in order: TxStart and TimeoutStep of the primary port, of the auxiliary port, both forwards, the
pump if something is pending, one host byte if one is latched (R280, R281; order inside the groups: D4, log 3). -/
def Obligations.PassOrder : Prop :=
  ∀ s : State, s.phase = .txStartPri → s.agenda = [] →
    let t := forward .aux (forward .pri (timeoutStep .aux (txStart .aux (timeoutStep .pri (txStart .pri s)))))
    steps 8 s = mapNext (fun v => { v with phase := .txStartPri })
      (serviceInput (match t.outq with
        | [] => t
        | e :: rest => { t with
            outq := rest, outLatch := some e, trace := t.trace ++ [.hostLatch e.1 e.2]
            busLog := t.busLog ++ [.auxFlag e.2, .drive e.1, .outStrobe] }))

/-- Every HostLatch event is the entry at the front of the outbound queue, popped in that step, and is what the output latch then
holds; in every other step no event is added, and the latch keeps its value unless power is applied (R194, R45, R193). -/
def Obligations.LatchComesFromQueueFront : Prop :=
  ∀ s t : State, step s = .next t →
    (t.latches = s.latches ∧ (t.outLatch = s.outLatch ∨ (s.agenda.head? = some .powerOn ∧ t.outLatch = none))) ∨
    ∃ e, s.outq = e :: t.outq ∧ t.latches = s.latches ++ [e] ∧ t.outLatch = some e ∧ s.phase = .pumpOutput

/-- At most one HostLatch event occurs in a pass: from its start, in any run of at most eight main-loop sub-steps, whatever edges,
host moves and power lie between them (R194, R280, R70). -/
def Obligations.OneLatchPerPass : Prop :=
  ∀ (s t : State) (n : Nat), s.phase = .txStartPri → s.loopMoves n ≤ 8 → steps n s = .next t →
    t.latches = s.latches ∨ ∃ e, t.latches = s.latches ++ [e]

/-- A received byte of either port with nothing ahead of it is forwarded and latched in the same pass: the primary port's, and the
auxiliary port's when the primary port has received none (R282, R270, R280; order of the ports: D4, log 3). A host byte serviced at
the end of the pass does not matter; if none is, the receive queue has then lost just that byte. -/
def Obligations.ReceivedByteLatchedSamePass : Prop :=
  ∀ (s : State) (p : PortId) (b : Byte) (rest : List Byte), s.phase = .txStartPri → s.agenda = [] → s.pending.wf = true →
    s.outq = [] → (s.port p).receiveQueue = b :: rest → (p = .aux → s.pri.receiveQueue = []) →
    ∃ t, steps 8 s = .next t ∧ t.latches = s.latches ++ [(b, decide (p = PortId.aux))] ∧
      t.outLatch = some (b, decide (p = PortId.aux)) ∧ (s.ibf = false → (t.port p).receiveQueue = rest)

/-- Every entry of the outbound queue reaches the host: with k entries ahead of it, no host byte to service and no other move
between the sub-steps, it is latched in pass k + 1, after those k in their order (R282, R361). -/
def Obligations.QueuedEntriesReachTheLatch : Prop :=
  ∀ (s : State) (ahead behind : List OutEntry) (e : OutEntry), s.phase = .txStartPri → s.agenda = [] → s.ibf = false →
    s.outq = ahead ++ e :: behind →
    ∃ t, steps (8 * (ahead.length + 1)) s = .next t ∧ t.latches = s.latches ++ ahead ++ [e] ∧ t.outLatch = some e

/-! ### The whole machine -/

/-- The power-on state (R49, R330): both ports Idle with empty queues, the configuration register and the disable bits from
CONFIG_RESET, nothing pending, the store at NV_INIT, the output latch never written. Lines: D33 (log 30); bits 4 and 5: D16 (log 7);
the input latch empty is the spec's launch premise (D26, log 12). -/
def Obligations.PowerOnValues : Prop :=
  State.reset.cfg = Config.configReset ∧ State.reset.pending = .none ∧ State.reset.outq = [] ∧
  State.reset.ibf = false ∧ State.reset.outLatch = none ∧ (∀ a, Memory.read State.reset.nv a = Config.nvInit a) ∧
  State.reset.pri.inhibited = Config.configReset.getLsbD 4 ∧ State.reset.aux.inhibited = Config.configReset.getLsbD 5 ∧
  ∀ p : PortId, (State.reset.port p).link = .idle ∧ (State.reset.port p).bitCount = 0 ∧
    (State.reset.port p).timeoutCounter = 0 ∧ (State.reset.port p).clkDriveLow = (State.reset.port p).inhibited ∧
    (State.reset.port p).dataDriveLow = false ∧ (State.reset.port p).receiveQueue = [] ∧
    (State.reset.port p).transmitQueue = []

/-- Application of power later on gives the power-on values again, except that the store keeps its contents and the input latch is
the environment's (R46, R330, R49; log 30). Equality with the power-on ports also fixes the three registers to which the spec gives
no value: the model's choice, log 11. Bits 4 and 5: D16 (log 7); lines: D33 (log 30). -/
def Obligations.PowerOnKeepsStore : Prop :=
  ∀ (s : State) (rest : List Move), s.agenda = .powerOn :: rest → ∃ P A : Port,
    step s = .next { State.reset with
      pri := P, aux := A, nv := s.nv, ibf := s.ibf, inByte := s.inByte, inTag := s.inTag, trace := s.trace
      busLog := s.busLog, hostReads := s.hostReads, agenda := rest, freeCount := s.freeCount
      resetCodes := s.resetCodes } ∧
    { P with lineLog := [] } = State.reset.pri ∧ { A with lineLog := [] } = State.reset.aux

/-- The power-on state is legal (R26, R27, R38, R49, R126). Its mirror rests on the bit positions, the spec's D16 (log 7), its clock
lines on D33 (log 30), its empty store and records on log 15 and log 26. -/
def Obligations.ResetIsLegal : Prop := State.reset.Inv

/-- Every step keeps a legal state legal: the 22 sequencer pairs (R26), the queue bounds (R126), the timeout bound (R27), the lines
(R150, R175), the mirror (R38), the pending address (R40), the store's canonical form and addresses (R42), the output latch (R45). Of these the
TransmitAck pair rests on the spec's D8 (log 23), position 0 in Idle on D7 (log 24), the timeout bound on D12 and D13 (log 16), the
lines on D10 and D11 (log 22), the mirror's bits on D16 (log 7), the store's form on log 15. -/
def Obligations.StepKeepsLegalState : Prop :=
  ∀ s t : State, s.Inv → step s = .next t → t.Inv

/-- After every atomic step the inhibit flags mirror the disable bits, if they did before (R38; bit positions:
D16, log 7). -/
def Obligations.MirrorKeptByEveryStep : Prop :=
  ∀ s t : State, s.pri.inhibited = s.cfg.getLsbD 4 ∧ s.aux.inhibited = s.cfg.getLsbD 5 → step s = .next t →
    t.pri.inhibited = t.cfg.getLsbD 4 ∧ t.aux.inhibited = t.cfg.getLsbD 5

/-- No error halts the machine: from a legal state every step answers a next state, but for the one move the host must not make, a
write while IBF is asserted (R7, R304, R73, R198; the host's duty: D26, log 25). -/
def Obligations.NoStepHalts : Prop :=
  ∀ s : State, s.Inv →
    (∃ t, step s = .next t) ∨
    (step s = .refused .hostWriteWhileFull ∧ s.ibf = true ∧ ∃ t b rest, s.agenda = .hostWrite t b :: rest)

/-- The non-volatile store changes only by the main loop servicing a host byte under AwaitingStoreWrite, at that address and to that
byte; no reset changes it (R42, R46, R267). -/
def Obligations.StoreChangesOnlyByStoreWrite : Prop :=
  ∀ (s t : State) (x : Nat), step s = .next t → Memory.read t.nv x ≠ Memory.read s.nv x →
    ∃ a, s.pending = .awaitingStoreWrite a ∧ x = a.toNat ∧ Memory.read t.nv x = s.inByte ∧ t.pending = .none ∧
      s.ibf = true ∧ t.ibf = false ∧ s.phase = .serviceInput ∧ (s.agenda = [] ∨ s.agenda.head? = some .loop)

/-- The configuration register and the inhibit flags change only when a host byte is serviced or power is applied; no edge, timeout,
transmission or forwarding changes them (R28, R35, R75). -/
def Obligations.ConfigChangesOnlyByHost : Prop :=
  ∀ s t : State, step s = .next t →
    (t.cfg = s.cfg ∧ t.pri.inhibited = s.pri.inhibited ∧ t.aux.inhibited = s.aux.inhibited ∧ t.pending = s.pending) ∨
    s.agenda.head? = some .powerOn ∨
    (s.phase = .serviceInput ∧ s.ibf = true ∧ (s.agenda = [] ∨ s.agenda.head? = some .loop))

/-- `RESET_CODES` is configuration: no step changes it, so a legal set stays legal, and the power-on state has the default, the
spec's D19 (R5, R11; log 5). -/
def Obligations.ResetCodesNeverChange : Prop :=
  State.reset.resetCodes = defaultResetCodes ∧ resetCodesOk defaultResetCodes ∧
  ∀ s t : State, step s = .next t → t.resetCodes = s.resetCodes
end

