-- ==== Sys2Proof/Laws/Memory.lean ====
section
/-! SUPPORT. The byte store: read after write, and that a write keeps the canonical form. -/

namespace Sys2Proof.Machine

theorem Memory.read_filter_other (m : List Host.Cell) {a x : Nat} (h : x ≠ a) :
    Memory.read (m.filter (fun c => c.1 != a)) x = Memory.read m x := by
  induction m with
  | nil => rfl
  | cons c rest ih =>
    obtain ⟨k, v⟩ := c
    by_cases hk : k = a
    · subst hk
      simp [Memory.read, ih, Ne.symm h]
    · simp [Memory.read, ih, hk]

theorem Memory.read_of_not_listed (m : List Host.Cell) (a : Nat) (h : ∀ c ∈ m, c.1 ≠ a) :
    Memory.read m a = Memory.unlisted a := by
  induction m with
  | nil => rfl
  | cons c rest ih =>
    obtain ⟨k, v⟩ := c
    have hk : k ≠ a := h (k, v) (by simp)
    simp [Memory.read, hk, ih (fun c hc => h c (by simp [hc]))]

theorem Memory.read_insertCell_same (m : List Host.Cell) (a : Nat) (v : Byte) (h : ∀ c ∈ m, c.1 ≠ a) :
    Memory.read (Memory.insertCell a v m) a = v := by
  induction m with
  | nil => simp [Memory.insertCell, Memory.read]
  | cons c rest ih =>
    obtain ⟨k, w⟩ := c
    have hk : k ≠ a := h (k, w) (by simp)
    rw [Memory.insertCell]
    split
    · simp [Memory.read]
    · simp [Memory.read, hk, ih (fun c hc => h c (by simp [hc]))]

theorem Memory.read_insertCell_other (m : List Host.Cell) {a x : Nat} (v : Byte) (h : x ≠ a) :
    Memory.read (Memory.insertCell a v m) x = Memory.read m x := by
  induction m with
  | nil => simp [Memory.insertCell, Memory.read, Ne.symm h]
  | cons c rest ih =>
    obtain ⟨k, w⟩ := c
    rw [Memory.insertCell]
    split
    · simp [Memory.read, Ne.symm h]
    · simp [Memory.read, ih]

theorem Memory.filter_ne_key (m : List Host.Cell) (a : Nat) : ∀ c ∈ m.filter (fun c => c.1 != a), c.1 ≠ a := by
  intro c hc
  simpa using (List.mem_filter.1 hc).2

/-- A read after a write to the same address gives the value written. -/
@[simp] theorem Memory.read_write_same (m : List Host.Cell) (a : Nat) (v : Byte) :
    Memory.read (Memory.write m a v) a = v := by
  simp only [Memory.write]
  split
  · next h => rw [Memory.read_of_not_listed _ _ (Memory.filter_ne_key m a), h]
  · exact Memory.read_insertCell_same _ _ _ (Memory.filter_ne_key m a)

/-- A write leaves every other address alone. -/
theorem Memory.read_write_other (m : List Host.Cell) {a x : Nat} (v : Byte) (h : x ≠ a) :
    Memory.read (Memory.write m a v) x = Memory.read m x := by
  simp only [Memory.write]
  split
  · exact Memory.read_filter_other m h
  · rw [Memory.read_insertCell_other _ _ h, Memory.read_filter_other m h]

theorem Memory.mem_insertCell {m : List Host.Cell} {a : Nat} {v : Byte} {c : Host.Cell} :
    c ∈ Memory.insertCell a v m ↔ c = (a, v) ∨ c ∈ m := by
  induction m with
  | nil => simp [Memory.insertCell]
  | cons d rest ih =>
    obtain ⟨k, w⟩ := d
    rw [Memory.insertCell]
    split
    · simp
    · simp only [List.mem_cons, ih]
      tauto

theorem Memory.mem_write {m : List Host.Cell} {a : Nat} {v : Byte} {c : Host.Cell} (h : c ∈ Memory.write m a v) :
    c = (a, v) ∨ c ∈ m := by
  simp only [Memory.write] at h
  split at h
  · exact .inr (List.mem_filter.1 h).1
  · rcases Memory.mem_insertCell.1 h with h | h
    · exact .inl h
    · exact .inr (List.mem_filter.1 h).1

theorem Memory.insertCell_rising (m : List Host.Cell) (a : Nat) (v : Byte) (hm : m.Pairwise (fun x y => x.1 < y.1))
    (ha : ∀ c ∈ m, c.1 ≠ a) : (Memory.insertCell a v m).Pairwise (fun x y => x.1 < y.1) := by
  induction m with
  | nil => simp [Memory.insertCell]
  | cons c rest ih =>
    obtain ⟨k, w⟩ := c
    obtain ⟨hk, hrest⟩ := List.pairwise_cons.1 hm
    have hne : k ≠ a := ha (k, w) (by simp)
    rw [Memory.insertCell]
    split
    · next hlt =>
      refine List.pairwise_cons.2 ⟨?_, hm⟩
      intro d hd
      rcases List.mem_cons.1 hd with rfl | hd
      · exact hlt
      · exact Nat.lt_trans hlt (hk d hd)
    · next hnlt =>
      refine List.pairwise_cons.2 ⟨?_, ih hrest (fun c hc => ha c (by simp [hc]))⟩
      intro d hd
      rcases Memory.mem_insertCell.1 hd with rfl | hd
      · exact Nat.lt_of_le_of_ne (Nat.le_of_not_lt hnlt) hne
      · exact hk d hd

/-- A write keeps the canonical form. -/
theorem Memory.write_wf {m : List Host.Cell} (h : Memory.wf m) (a : Nat) (v : Byte) : Memory.wf (Memory.write m a v) := by
  obtain ⟨hr, hn⟩ := h
  simp only [Memory.write]
  split
  · exact ⟨hr.filter _, fun c hc => hn c (List.mem_filter.1 hc).1⟩
  · next hv =>
    refine ⟨Memory.insertCell_rising _ a v (hr.filter _) (Memory.filter_ne_key m a), ?_⟩
    intro c hc
    rcases Memory.mem_insertCell.1 hc with rfl | hc
    · exact hv
    · exact hn c (List.mem_filter.1 hc).1

/-- A write to an address of the store keeps the store within its addresses. -/
theorem Memory.write_inStore {m : List Host.Cell} (h : Memory.inStore m) {a : Nat} (v : Byte)
    (ha : Config.nvLo ≤ a ∧ a ≤ Config.nvHi) : Memory.inStore (Memory.write m a v) := by
  intro c hc
  rcases Memory.mem_write hc with rfl | hc
  · exact ha
  · exact h c hc

theorem Memory.nil_wf : Memory.wf [] := ⟨List.Pairwise.nil, fun _ h => nomatch h⟩

end Sys2Proof.Machine
end

