-- ==== Sys2Proof/Laws/Queue.lean ====
section
/-! SUPPORT. What the bounded queue operations do (spec/40_queue_ops.md), for callers to cite. -/

namespace Sys2Proof.Machine

variable {α : Type}

theorem Queue.isFull_iff (n : Nat) (q : List α) : Queue.isFull n q = true ↔ n ≤ q.length + 1 := by
  simp [Queue.isFull]

theorem Queue.isFull_eq_false_iff (n : Nat) (q : List α) : Queue.isFull n q = false ↔ q.length + 1 < n := by
  simp [Queue.isFull]

theorem Queue.push_of_full {n : Nat} {q : List α} (v : α) (h : n ≤ q.length + 1) : Queue.push n q v = q := by
  rw [Queue.push, if_pos ((Queue.isFull_iff n q).2 h)]

theorem Queue.push_of_room {n : Nat} {q : List α} (v : α) (h : q.length + 1 < n) : Queue.push n q v = q ++ [v] := by
  rw [Queue.push, (Queue.isFull_eq_false_iff n q).2 h]; rfl

/-- All that `Push` can do. -/
theorem Queue.push_cases (n : Nat) (q : List α) (v : α) :
    (q.length + 1 < n ∧ Queue.push n q v = q ++ [v]) ∨ (n ≤ q.length + 1 ∧ Queue.push n q v = q) := by
  by_cases h : q.length + 1 < n
  · exact .inl ⟨h, Queue.push_of_room v h⟩
  · exact .inr ⟨Nat.le_of_not_lt h, Queue.push_of_full v (Nat.le_of_not_lt h)⟩

/-- `Push` keeps the capacity bound (R126). -/
theorem Queue.push_length_lt {n : Nat} {q : List α} (v : α) (h : q.length < n) : (Queue.push n q v).length < n := by
  rcases Queue.push_cases n q v with ⟨hr, hp⟩ | ⟨_, hp⟩ <;> rw [hp]
  · simpa using hr
  · exact h

theorem Queue.push_prefix (n : Nat) (q : List α) (v : α) : q <+: Queue.push n q v := by
  rcases Queue.push_cases n q v with ⟨_, hp⟩ | ⟨_, hp⟩ <;> rw [hp]
  · exact List.prefix_append q [v]

@[simp] theorem Queue.isEmpty_nil : Queue.isEmpty ([] : List α) = true := rfl

@[simp] theorem Queue.isEmpty_cons (v : α) (q : List α) : Queue.isEmpty (v :: q) = false := rfl

theorem Queue.isEmpty_iff (q : List α) : Queue.isEmpty q = true ↔ q = [] := by
  cases q <;> simp

theorem Queue.isEmpty_eq_false_iff (q : List α) : Queue.isEmpty q = false ↔ ∃ v rest, q = v :: rest := by
  cases q <;> simp

@[simp] theorem Queue.pop_nil (d : α) : Queue.pop d [] = (d, []) := rfl

@[simp] theorem Queue.pop_cons (d v : α) (q : List α) : Queue.pop d (v :: q) = (v, q) := rfl

/-- `Pop` takes items away only (R124). -/
theorem Queue.pop_length_le (d : α) (q : List α) : (Queue.pop d q).2.length ≤ q.length := by
  cases q <;> simp

/-- A draw of the reset command is a sub-list (R332). -/
theorem Queue.drawFrom_sublist (n : Nat) (q : List α) : ∀ i, (Queue.drawFrom n i q).Sublist q := by
  induction q with
  | nil => intro i; exact List.Sublist.slnil
  | cons v rest ih =>
    intro i
    rw [Queue.drawFrom]
    split
    · exact (ih (i + 1)).cons_cons v
    · exact (ih (i + 1)).cons v

theorem Queue.drawFrom_length_le (n i : Nat) (q : List α) : (Queue.drawFrom n i q).length ≤ q.length :=
  (Queue.drawFrom_sublist n q i).length_le

end Sys2Proof.Machine
end

