-- ==== Sys2Proof/Laws/State.lean ====
section
/-! SUPPORT. One lemma per field per named update of a Port record and of State, so that no proof unfolds a record update. -/

namespace Sys2Proof.Machine

/-! ### Port updates -/

@[simp] theorem Port.driveClk_link (low : Bool) (P : Port) : (Port.driveClk low P).link = P.link := rfl
@[simp] theorem Port.driveClk_bitCount (low : Bool) (P : Port) : (Port.driveClk low P).bitCount = P.bitCount := rfl
@[simp] theorem Port.driveClk_shiftRegister (low : Bool) (P : Port) : (Port.driveClk low P).shiftRegister = P.shiftRegister := rfl
@[simp] theorem Port.driveClk_txByte (low : Bool) (P : Port) : (Port.driveClk low P).txByte = P.txByte := rfl
@[simp] theorem Port.driveClk_runningParity (low : Bool) (P : Port) : (Port.driveClk low P).runningParity = P.runningParity := rfl
@[simp] theorem Port.driveClk_timeoutCounter (low : Bool) (P : Port) : (Port.driveClk low P).timeoutCounter = P.timeoutCounter := rfl
@[simp] theorem Port.driveClk_inhibited (low : Bool) (P : Port) : (Port.driveClk low P).inhibited = P.inhibited := rfl
@[simp] theorem Port.driveClk_clkDriveLow (low : Bool) (P : Port) : (Port.driveClk low P).clkDriveLow = low := rfl
@[simp] theorem Port.driveClk_dataDriveLow (low : Bool) (P : Port) : (Port.driveClk low P).dataDriveLow = P.dataDriveLow := rfl
@[simp] theorem Port.driveClk_receiveQueue (low : Bool) (P : Port) : (Port.driveClk low P).receiveQueue = P.receiveQueue := rfl
@[simp] theorem Port.driveClk_transmitQueue (low : Bool) (P : Port) : (Port.driveClk low P).transmitQueue = P.transmitQueue := rfl
@[simp] theorem Port.driveClk_lineLog (low : Bool) (P : Port) : (Port.driveClk low P).lineLog = P.lineLog ++ [.clk low] := rfl

@[simp] theorem Port.driveData_link (low : Bool) (P : Port) : (Port.driveData low P).link = P.link := rfl
@[simp] theorem Port.driveData_bitCount (low : Bool) (P : Port) : (Port.driveData low P).bitCount = P.bitCount := rfl
@[simp] theorem Port.driveData_shiftRegister (low : Bool) (P : Port) : (Port.driveData low P).shiftRegister = P.shiftRegister := rfl
@[simp] theorem Port.driveData_txByte (low : Bool) (P : Port) : (Port.driveData low P).txByte = P.txByte := rfl
@[simp] theorem Port.driveData_runningParity (low : Bool) (P : Port) : (Port.driveData low P).runningParity = P.runningParity := rfl
@[simp] theorem Port.driveData_timeoutCounter (low : Bool) (P : Port) : (Port.driveData low P).timeoutCounter = P.timeoutCounter := rfl
@[simp] theorem Port.driveData_inhibited (low : Bool) (P : Port) : (Port.driveData low P).inhibited = P.inhibited := rfl
@[simp] theorem Port.driveData_clkDriveLow (low : Bool) (P : Port) : (Port.driveData low P).clkDriveLow = P.clkDriveLow := rfl
@[simp] theorem Port.driveData_dataDriveLow (low : Bool) (P : Port) : (Port.driveData low P).dataDriveLow = low := rfl
@[simp] theorem Port.driveData_receiveQueue (low : Bool) (P : Port) : (Port.driveData low P).receiveQueue = P.receiveQueue := rfl
@[simp] theorem Port.driveData_transmitQueue (low : Bool) (P : Port) : (Port.driveData low P).transmitQueue = P.transmitQueue := rfl
@[simp] theorem Port.driveData_lineLog (low : Bool) (P : Port) : (Port.driveData low P).lineLog = P.lineLog ++ [.data low] := rfl

@[simp] theorem Port.busyWait_link (n : Nat) (P : Port) : (Port.busyWait n P).link = P.link := rfl
@[simp] theorem Port.busyWait_bitCount (n : Nat) (P : Port) : (Port.busyWait n P).bitCount = P.bitCount := rfl
@[simp] theorem Port.busyWait_shiftRegister (n : Nat) (P : Port) : (Port.busyWait n P).shiftRegister = P.shiftRegister := rfl
@[simp] theorem Port.busyWait_txByte (n : Nat) (P : Port) : (Port.busyWait n P).txByte = P.txByte := rfl
@[simp] theorem Port.busyWait_runningParity (n : Nat) (P : Port) : (Port.busyWait n P).runningParity = P.runningParity := rfl
@[simp] theorem Port.busyWait_timeoutCounter (n : Nat) (P : Port) : (Port.busyWait n P).timeoutCounter = P.timeoutCounter := rfl
@[simp] theorem Port.busyWait_inhibited (n : Nat) (P : Port) : (Port.busyWait n P).inhibited = P.inhibited := rfl
@[simp] theorem Port.busyWait_clkDriveLow (n : Nat) (P : Port) : (Port.busyWait n P).clkDriveLow = P.clkDriveLow := rfl
@[simp] theorem Port.busyWait_dataDriveLow (n : Nat) (P : Port) : (Port.busyWait n P).dataDriveLow = P.dataDriveLow := rfl
@[simp] theorem Port.busyWait_receiveQueue (n : Nat) (P : Port) : (Port.busyWait n P).receiveQueue = P.receiveQueue := rfl
@[simp] theorem Port.busyWait_transmitQueue (n : Nat) (P : Port) : (Port.busyWait n P).transmitQueue = P.transmitQueue := rfl
@[simp] theorem Port.busyWait_lineLog (n : Nat) (P : Port) : (Port.busyWait n P).lineLog = P.lineLog ++ [.wait n] := rfl

@[simp] theorem Port.setInhibit_link (v : Bool) (P : Port) : (Port.setInhibit v P).link = P.link := rfl
@[simp] theorem Port.setInhibit_bitCount (v : Bool) (P : Port) : (Port.setInhibit v P).bitCount = P.bitCount := rfl
@[simp] theorem Port.setInhibit_shiftRegister (v : Bool) (P : Port) : (Port.setInhibit v P).shiftRegister = P.shiftRegister := rfl
@[simp] theorem Port.setInhibit_txByte (v : Bool) (P : Port) : (Port.setInhibit v P).txByte = P.txByte := rfl
@[simp] theorem Port.setInhibit_runningParity (v : Bool) (P : Port) : (Port.setInhibit v P).runningParity = P.runningParity := rfl
@[simp] theorem Port.setInhibit_timeoutCounter (v : Bool) (P : Port) : (Port.setInhibit v P).timeoutCounter = P.timeoutCounter := rfl
@[simp] theorem Port.setInhibit_inhibited (v : Bool) (P : Port) : (Port.setInhibit v P).inhibited = v := rfl
@[simp] theorem Port.setInhibit_clkDriveLow (v : Bool) (P : Port) : (Port.setInhibit v P).clkDriveLow = v := rfl
@[simp] theorem Port.setInhibit_dataDriveLow (v : Bool) (P : Port) : (Port.setInhibit v P).dataDriveLow = P.dataDriveLow := rfl
@[simp] theorem Port.setInhibit_receiveQueue (v : Bool) (P : Port) : (Port.setInhibit v P).receiveQueue = P.receiveQueue := rfl
@[simp] theorem Port.setInhibit_transmitQueue (v : Bool) (P : Port) : (Port.setInhibit v P).transmitQueue = P.transmitQueue := rfl
@[simp] theorem Port.setInhibit_lineLog (v : Bool) (P : Port) : (Port.setInhibit v P).lineLog = P.lineLog ++ [.clk v] := rfl

@[simp] theorem Port.pushReceive_link (b : Byte) (P : Port) : (Port.pushReceive b P).link = P.link := rfl
@[simp] theorem Port.pushReceive_bitCount (b : Byte) (P : Port) : (Port.pushReceive b P).bitCount = P.bitCount := rfl
@[simp] theorem Port.pushReceive_shiftRegister (b : Byte) (P : Port) : (Port.pushReceive b P).shiftRegister = P.shiftRegister := rfl
@[simp] theorem Port.pushReceive_txByte (b : Byte) (P : Port) : (Port.pushReceive b P).txByte = P.txByte := rfl
@[simp] theorem Port.pushReceive_runningParity (b : Byte) (P : Port) : (Port.pushReceive b P).runningParity = P.runningParity := rfl
@[simp] theorem Port.pushReceive_timeoutCounter (b : Byte) (P : Port) : (Port.pushReceive b P).timeoutCounter = P.timeoutCounter := rfl
@[simp] theorem Port.pushReceive_inhibited (b : Byte) (P : Port) : (Port.pushReceive b P).inhibited = P.inhibited := rfl
@[simp] theorem Port.pushReceive_clkDriveLow (b : Byte) (P : Port) : (Port.pushReceive b P).clkDriveLow = P.clkDriveLow := rfl
@[simp] theorem Port.pushReceive_dataDriveLow (b : Byte) (P : Port) : (Port.pushReceive b P).dataDriveLow = P.dataDriveLow := rfl
@[simp] theorem Port.pushReceive_receiveQueue (b : Byte) (P : Port) : (Port.pushReceive b P).receiveQueue = Queue.push Config.ps2QueueSlots P.receiveQueue b := rfl
@[simp] theorem Port.pushReceive_transmitQueue (b : Byte) (P : Port) : (Port.pushReceive b P).transmitQueue = P.transmitQueue := rfl
@[simp] theorem Port.pushReceive_lineLog (b : Byte) (P : Port) : (Port.pushReceive b P).lineLog = P.lineLog := rfl

@[simp] theorem Port.pushTransmit_link (b : Byte) (P : Port) : (Port.pushTransmit b P).link = P.link := rfl
@[simp] theorem Port.pushTransmit_bitCount (b : Byte) (P : Port) : (Port.pushTransmit b P).bitCount = P.bitCount := rfl
@[simp] theorem Port.pushTransmit_shiftRegister (b : Byte) (P : Port) : (Port.pushTransmit b P).shiftRegister = P.shiftRegister := rfl
@[simp] theorem Port.pushTransmit_txByte (b : Byte) (P : Port) : (Port.pushTransmit b P).txByte = P.txByte := rfl
@[simp] theorem Port.pushTransmit_runningParity (b : Byte) (P : Port) : (Port.pushTransmit b P).runningParity = P.runningParity := rfl
@[simp] theorem Port.pushTransmit_timeoutCounter (b : Byte) (P : Port) : (Port.pushTransmit b P).timeoutCounter = P.timeoutCounter := rfl
@[simp] theorem Port.pushTransmit_inhibited (b : Byte) (P : Port) : (Port.pushTransmit b P).inhibited = P.inhibited := rfl
@[simp] theorem Port.pushTransmit_clkDriveLow (b : Byte) (P : Port) : (Port.pushTransmit b P).clkDriveLow = P.clkDriveLow := rfl
@[simp] theorem Port.pushTransmit_dataDriveLow (b : Byte) (P : Port) : (Port.pushTransmit b P).dataDriveLow = P.dataDriveLow := rfl
@[simp] theorem Port.pushTransmit_receiveQueue (b : Byte) (P : Port) : (Port.pushTransmit b P).receiveQueue = P.receiveQueue := rfl
@[simp] theorem Port.pushTransmit_transmitQueue (b : Byte) (P : Port) : (Port.pushTransmit b P).transmitQueue = Queue.push Config.ps2QueueSlots P.transmitQueue b := rfl
@[simp] theorem Port.pushTransmit_lineLog (b : Byte) (P : Port) : (Port.pushTransmit b P).lineLog = P.lineLog := rfl

@[simp] theorem Port.toIdle_link (P : Port) : (Port.toIdle P).link = .idle := rfl
@[simp] theorem Port.toIdle_bitCount (P : Port) : (Port.toIdle P).bitCount = 0 := rfl
@[simp] theorem Port.toIdle_shiftRegister (P : Port) : (Port.toIdle P).shiftRegister = P.shiftRegister := rfl
@[simp] theorem Port.toIdle_txByte (P : Port) : (Port.toIdle P).txByte = P.txByte := rfl
@[simp] theorem Port.toIdle_runningParity (P : Port) : (Port.toIdle P).runningParity = P.runningParity := rfl
@[simp] theorem Port.toIdle_timeoutCounter (P : Port) : (Port.toIdle P).timeoutCounter = P.timeoutCounter := rfl
@[simp] theorem Port.toIdle_inhibited (P : Port) : (Port.toIdle P).inhibited = P.inhibited := rfl
@[simp] theorem Port.toIdle_clkDriveLow (P : Port) : (Port.toIdle P).clkDriveLow = P.clkDriveLow := rfl
@[simp] theorem Port.toIdle_dataDriveLow (P : Port) : (Port.toIdle P).dataDriveLow = P.dataDriveLow := rfl
@[simp] theorem Port.toIdle_receiveQueue (P : Port) : (Port.toIdle P).receiveQueue = P.receiveQueue := rfl
@[simp] theorem Port.toIdle_transmitQueue (P : Port) : (Port.toIdle P).transmitQueue = P.transmitQueue := rfl
@[simp] theorem Port.toIdle_lineLog (P : Port) : (Port.toIdle P).lineLog = P.lineLog := rfl

/-! ### State updates -/

@[simp] theorem State.emit_pri (e : Event) (s : State) : (s.emit e).pri = s.pri := rfl
@[simp] theorem State.emit_aux (e : Event) (s : State) : (s.emit e).aux = s.aux := rfl
@[simp] theorem State.emit_cfg (e : Event) (s : State) : (s.emit e).cfg = s.cfg := rfl
@[simp] theorem State.emit_pending (e : Event) (s : State) : (s.emit e).pending = s.pending := rfl
@[simp] theorem State.emit_nv (e : Event) (s : State) : (s.emit e).nv = s.nv := rfl
@[simp] theorem State.emit_outq (e : Event) (s : State) : (s.emit e).outq = s.outq := rfl
@[simp] theorem State.emit_ibf (e : Event) (s : State) : (s.emit e).ibf = s.ibf := rfl
@[simp] theorem State.emit_inByte (e : Event) (s : State) : (s.emit e).inByte = s.inByte := rfl
@[simp] theorem State.emit_inTag (e : Event) (s : State) : (s.emit e).inTag = s.inTag := rfl
@[simp] theorem State.emit_outLatch (e : Event) (s : State) : (s.emit e).outLatch = s.outLatch := rfl
@[simp] theorem State.emit_trace (e : Event) (s : State) : (s.emit e).trace = s.trace ++ [e] := rfl
@[simp] theorem State.emit_busLog (e : Event) (s : State) : (s.emit e).busLog = s.busLog := rfl
@[simp] theorem State.emit_hostReads (e : Event) (s : State) : (s.emit e).hostReads = s.hostReads := rfl
@[simp] theorem State.emit_phase (e : Event) (s : State) : (s.emit e).phase = s.phase := rfl
@[simp] theorem State.emit_agenda (e : Event) (s : State) : (s.emit e).agenda = s.agenda := rfl
@[simp] theorem State.emit_freeCount (e : Event) (s : State) : (s.emit e).freeCount = s.freeCount := rfl
@[simp] theorem State.emit_resetCodes (e : Event) (s : State) : (s.emit e).resetCodes = s.resetCodes := rfl

@[simp] theorem State.signal_pri (l : List BusAction) (s : State) : (s.signal l).pri = s.pri := rfl
@[simp] theorem State.signal_aux (l : List BusAction) (s : State) : (s.signal l).aux = s.aux := rfl
@[simp] theorem State.signal_cfg (l : List BusAction) (s : State) : (s.signal l).cfg = s.cfg := rfl
@[simp] theorem State.signal_pending (l : List BusAction) (s : State) : (s.signal l).pending = s.pending := rfl
@[simp] theorem State.signal_nv (l : List BusAction) (s : State) : (s.signal l).nv = s.nv := rfl
@[simp] theorem State.signal_outq (l : List BusAction) (s : State) : (s.signal l).outq = s.outq := rfl
@[simp] theorem State.signal_ibf (l : List BusAction) (s : State) : (s.signal l).ibf = s.ibf := rfl
@[simp] theorem State.signal_inByte (l : List BusAction) (s : State) : (s.signal l).inByte = s.inByte := rfl
@[simp] theorem State.signal_inTag (l : List BusAction) (s : State) : (s.signal l).inTag = s.inTag := rfl
@[simp] theorem State.signal_outLatch (l : List BusAction) (s : State) : (s.signal l).outLatch = s.outLatch := rfl
@[simp] theorem State.signal_trace (l : List BusAction) (s : State) : (s.signal l).trace = s.trace := rfl
@[simp] theorem State.signal_busLog (l : List BusAction) (s : State) : (s.signal l).busLog = s.busLog ++ l := rfl
@[simp] theorem State.signal_hostReads (l : List BusAction) (s : State) : (s.signal l).hostReads = s.hostReads := rfl
@[simp] theorem State.signal_phase (l : List BusAction) (s : State) : (s.signal l).phase = s.phase := rfl
@[simp] theorem State.signal_agenda (l : List BusAction) (s : State) : (s.signal l).agenda = s.agenda := rfl
@[simp] theorem State.signal_freeCount (l : List BusAction) (s : State) : (s.signal l).freeCount = s.freeCount := rfl
@[simp] theorem State.signal_resetCodes (l : List BusAction) (s : State) : (s.signal l).resetCodes = s.resetCodes := rfl

@[simp] theorem State.setPhase_pri (k : SubStep) (s : State) : (s.setPhase k).pri = s.pri := rfl
@[simp] theorem State.setPhase_aux (k : SubStep) (s : State) : (s.setPhase k).aux = s.aux := rfl
@[simp] theorem State.setPhase_cfg (k : SubStep) (s : State) : (s.setPhase k).cfg = s.cfg := rfl
@[simp] theorem State.setPhase_pending (k : SubStep) (s : State) : (s.setPhase k).pending = s.pending := rfl
@[simp] theorem State.setPhase_nv (k : SubStep) (s : State) : (s.setPhase k).nv = s.nv := rfl
@[simp] theorem State.setPhase_outq (k : SubStep) (s : State) : (s.setPhase k).outq = s.outq := rfl
@[simp] theorem State.setPhase_ibf (k : SubStep) (s : State) : (s.setPhase k).ibf = s.ibf := rfl
@[simp] theorem State.setPhase_inByte (k : SubStep) (s : State) : (s.setPhase k).inByte = s.inByte := rfl
@[simp] theorem State.setPhase_inTag (k : SubStep) (s : State) : (s.setPhase k).inTag = s.inTag := rfl
@[simp] theorem State.setPhase_outLatch (k : SubStep) (s : State) : (s.setPhase k).outLatch = s.outLatch := rfl
@[simp] theorem State.setPhase_trace (k : SubStep) (s : State) : (s.setPhase k).trace = s.trace := rfl
@[simp] theorem State.setPhase_busLog (k : SubStep) (s : State) : (s.setPhase k).busLog = s.busLog := rfl
@[simp] theorem State.setPhase_hostReads (k : SubStep) (s : State) : (s.setPhase k).hostReads = s.hostReads := rfl
@[simp] theorem State.setPhase_phase (k : SubStep) (s : State) : (s.setPhase k).phase = k := rfl
@[simp] theorem State.setPhase_agenda (k : SubStep) (s : State) : (s.setPhase k).agenda = s.agenda := rfl
@[simp] theorem State.setPhase_freeCount (k : SubStep) (s : State) : (s.setPhase k).freeCount = s.freeCount := rfl
@[simp] theorem State.setPhase_resetCodes (k : SubStep) (s : State) : (s.setPhase k).resetCodes = s.resetCodes := rfl

@[simp] theorem setPending_pri (m : Pending) (s : State) : (setPending m s).pri = s.pri := rfl
@[simp] theorem setPending_aux (m : Pending) (s : State) : (setPending m s).aux = s.aux := rfl
@[simp] theorem setPending_cfg (m : Pending) (s : State) : (setPending m s).cfg = s.cfg := rfl
@[simp] theorem setPending_pending (m : Pending) (s : State) : (setPending m s).pending = m := rfl
@[simp] theorem setPending_nv (m : Pending) (s : State) : (setPending m s).nv = s.nv := rfl
@[simp] theorem setPending_outq (m : Pending) (s : State) : (setPending m s).outq = s.outq := rfl
@[simp] theorem setPending_ibf (m : Pending) (s : State) : (setPending m s).ibf = s.ibf := rfl
@[simp] theorem setPending_inByte (m : Pending) (s : State) : (setPending m s).inByte = s.inByte := rfl
@[simp] theorem setPending_inTag (m : Pending) (s : State) : (setPending m s).inTag = s.inTag := rfl
@[simp] theorem setPending_outLatch (m : Pending) (s : State) : (setPending m s).outLatch = s.outLatch := rfl
@[simp] theorem setPending_trace (m : Pending) (s : State) : (setPending m s).trace = s.trace := rfl
@[simp] theorem setPending_busLog (m : Pending) (s : State) : (setPending m s).busLog = s.busLog := rfl
@[simp] theorem setPending_hostReads (m : Pending) (s : State) : (setPending m s).hostReads = s.hostReads := rfl
@[simp] theorem setPending_phase (m : Pending) (s : State) : (setPending m s).phase = s.phase := rfl
@[simp] theorem setPending_agenda (m : Pending) (s : State) : (setPending m s).agenda = s.agenda := rfl
@[simp] theorem setPending_freeCount (m : Pending) (s : State) : (setPending m s).freeCount = s.freeCount := rfl
@[simp] theorem setPending_resetCodes (m : Pending) (s : State) : (setPending m s).resetCodes = s.resetCodes := rfl

@[simp] theorem enqueue_pri (b : Byte) (f : Bool) (s : State) : (enqueue b f s).pri = s.pri := rfl
@[simp] theorem enqueue_aux (b : Byte) (f : Bool) (s : State) : (enqueue b f s).aux = s.aux := rfl
@[simp] theorem enqueue_cfg (b : Byte) (f : Bool) (s : State) : (enqueue b f s).cfg = s.cfg := rfl
@[simp] theorem enqueue_pending (b : Byte) (f : Bool) (s : State) : (enqueue b f s).pending = s.pending := rfl
@[simp] theorem enqueue_nv (b : Byte) (f : Bool) (s : State) : (enqueue b f s).nv = s.nv := rfl
@[simp] theorem enqueue_outq (b : Byte) (f : Bool) (s : State) : (enqueue b f s).outq = Queue.push Config.outQueueSlots s.outq (b, f) := rfl
@[simp] theorem enqueue_ibf (b : Byte) (f : Bool) (s : State) : (enqueue b f s).ibf = s.ibf := rfl
@[simp] theorem enqueue_inByte (b : Byte) (f : Bool) (s : State) : (enqueue b f s).inByte = s.inByte := rfl
@[simp] theorem enqueue_inTag (b : Byte) (f : Bool) (s : State) : (enqueue b f s).inTag = s.inTag := rfl
@[simp] theorem enqueue_outLatch (b : Byte) (f : Bool) (s : State) : (enqueue b f s).outLatch = s.outLatch := rfl
@[simp] theorem enqueue_trace (b : Byte) (f : Bool) (s : State) : (enqueue b f s).trace = s.trace := rfl
@[simp] theorem enqueue_busLog (b : Byte) (f : Bool) (s : State) : (enqueue b f s).busLog = s.busLog := rfl
@[simp] theorem enqueue_hostReads (b : Byte) (f : Bool) (s : State) : (enqueue b f s).hostReads = s.hostReads := rfl
@[simp] theorem enqueue_phase (b : Byte) (f : Bool) (s : State) : (enqueue b f s).phase = s.phase := rfl
@[simp] theorem enqueue_agenda (b : Byte) (f : Bool) (s : State) : (enqueue b f s).agenda = s.agenda := rfl
@[simp] theorem enqueue_freeCount (b : Byte) (f : Bool) (s : State) : (enqueue b f s).freeCount = s.freeCount := rfl
@[simp] theorem enqueue_resetCodes (b : Byte) (f : Bool) (s : State) : (enqueue b f s).resetCodes = s.resetCodes := rfl

@[simp] theorem respond_pri (b : Byte) (s : State) : (respond b s).pri = s.pri := rfl
@[simp] theorem respond_aux (b : Byte) (s : State) : (respond b s).aux = s.aux := rfl
@[simp] theorem respond_cfg (b : Byte) (s : State) : (respond b s).cfg = s.cfg := rfl
@[simp] theorem respond_pending (b : Byte) (s : State) : (respond b s).pending = s.pending := rfl
@[simp] theorem respond_nv (b : Byte) (s : State) : (respond b s).nv = s.nv := rfl
@[simp] theorem respond_outq (b : Byte) (s : State) : (respond b s).outq = Queue.push Config.outQueueSlots s.outq (b, responseFlag) := rfl
@[simp] theorem respond_ibf (b : Byte) (s : State) : (respond b s).ibf = s.ibf := rfl
@[simp] theorem respond_inByte (b : Byte) (s : State) : (respond b s).inByte = s.inByte := rfl
@[simp] theorem respond_inTag (b : Byte) (s : State) : (respond b s).inTag = s.inTag := rfl
@[simp] theorem respond_outLatch (b : Byte) (s : State) : (respond b s).outLatch = s.outLatch := rfl
@[simp] theorem respond_trace (b : Byte) (s : State) : (respond b s).trace = s.trace := rfl
@[simp] theorem respond_busLog (b : Byte) (s : State) : (respond b s).busLog = s.busLog := rfl
@[simp] theorem respond_hostReads (b : Byte) (s : State) : (respond b s).hostReads = s.hostReads := rfl
@[simp] theorem respond_phase (b : Byte) (s : State) : (respond b s).phase = s.phase := rfl
@[simp] theorem respond_agenda (b : Byte) (s : State) : (respond b s).agenda = s.agenda := rfl
@[simp] theorem respond_freeCount (b : Byte) (s : State) : (respond b s).freeCount = s.freeCount := rfl
@[simp] theorem respond_resetCodes (b : Byte) (s : State) : (respond b s).resetCodes = s.resetCodes := rfl

@[simp] theorem clearInput_pri (s : State) : (clearInput s).pri = s.pri := rfl
@[simp] theorem clearInput_aux (s : State) : (clearInput s).aux = s.aux := rfl
@[simp] theorem clearInput_cfg (s : State) : (clearInput s).cfg = s.cfg := rfl
@[simp] theorem clearInput_pending (s : State) : (clearInput s).pending = s.pending := rfl
@[simp] theorem clearInput_nv (s : State) : (clearInput s).nv = s.nv := rfl
@[simp] theorem clearInput_outq (s : State) : (clearInput s).outq = s.outq := rfl
@[simp] theorem clearInput_ibf (s : State) : (clearInput s).ibf = false := rfl
@[simp] theorem clearInput_inByte (s : State) : (clearInput s).inByte = s.inByte := rfl
@[simp] theorem clearInput_inTag (s : State) : (clearInput s).inTag = s.inTag := rfl
@[simp] theorem clearInput_outLatch (s : State) : (clearInput s).outLatch = s.outLatch := rfl
@[simp] theorem clearInput_trace (s : State) : (clearInput s).trace = s.trace ++ [.inputCleared] := rfl
@[simp] theorem clearInput_busLog (s : State) : (clearInput s).busLog = s.busLog ++ readInputSignals := rfl
@[simp] theorem clearInput_hostReads (s : State) : (clearInput s).hostReads = s.hostReads := rfl
@[simp] theorem clearInput_phase (s : State) : (clearInput s).phase = s.phase := rfl
@[simp] theorem clearInput_agenda (s : State) : (clearInput s).agenda = s.agenda := rfl
@[simp] theorem clearInput_freeCount (s : State) : (clearInput s).freeCount = s.freeCount := rfl
@[simp] theorem clearInput_resetCodes (s : State) : (clearInput s).resetCodes = s.resetCodes := rfl

@[simp] theorem latchOutput_pri (e : OutEntry) (s : State) : (latchOutput e s).pri = s.pri := rfl
@[simp] theorem latchOutput_aux (e : OutEntry) (s : State) : (latchOutput e s).aux = s.aux := rfl
@[simp] theorem latchOutput_cfg (e : OutEntry) (s : State) : (latchOutput e s).cfg = s.cfg := rfl
@[simp] theorem latchOutput_pending (e : OutEntry) (s : State) : (latchOutput e s).pending = s.pending := rfl
@[simp] theorem latchOutput_nv (e : OutEntry) (s : State) : (latchOutput e s).nv = s.nv := rfl
@[simp] theorem latchOutput_outq (e : OutEntry) (s : State) : (latchOutput e s).outq = s.outq := rfl
@[simp] theorem latchOutput_ibf (e : OutEntry) (s : State) : (latchOutput e s).ibf = s.ibf := rfl
@[simp] theorem latchOutput_inByte (e : OutEntry) (s : State) : (latchOutput e s).inByte = s.inByte := rfl
@[simp] theorem latchOutput_inTag (e : OutEntry) (s : State) : (latchOutput e s).inTag = s.inTag := rfl
@[simp] theorem latchOutput_outLatch (e : OutEntry) (s : State) : (latchOutput e s).outLatch = some e := rfl
@[simp] theorem latchOutput_trace (e : OutEntry) (s : State) : (latchOutput e s).trace = s.trace ++ [.hostLatch e.1 e.2] := rfl
@[simp] theorem latchOutput_busLog (e : OutEntry) (s : State) : (latchOutput e s).busLog = s.busLog ++ [.auxFlag e.2, .drive e.1, .outStrobe] := rfl
@[simp] theorem latchOutput_hostReads (e : OutEntry) (s : State) : (latchOutput e s).hostReads = s.hostReads := rfl
@[simp] theorem latchOutput_phase (e : OutEntry) (s : State) : (latchOutput e s).phase = s.phase := rfl
@[simp] theorem latchOutput_agenda (e : OutEntry) (s : State) : (latchOutput e s).agenda = s.agenda := rfl
@[simp] theorem latchOutput_freeCount (e : OutEntry) (s : State) : (latchOutput e s).freeCount = s.freeCount := rfl
@[simp] theorem latchOutput_resetCodes (e : OutEntry) (s : State) : (latchOutput e s).resetCodes = s.resetCodes := rfl

/-! ### One port of a state -/

@[simp] theorem State.setPort_port_same (s : State) (p : PortId) (P : Port) : (s.setPort p P).port p = P := by cases p <;> rfl

theorem State.setPort_port_other (s : State) (p q : PortId) (P : Port) (h : q ≠ p) : (s.setPort p P).port q = s.port q := by
  cases p <;> cases q <;> first | rfl | exact absurd rfl h

@[simp] theorem State.setPort_port_self (s : State) (p : PortId) : s.setPort p (s.port p) = s := by cases p <;> rfl

@[simp] theorem State.setPort_pri (s : State) (P : Port) : s.setPort .pri P = { s with pri := P } := rfl

@[simp] theorem State.setPort_aux (s : State) (P : Port) : s.setPort .aux P = { s with aux := P } := rfl

@[simp] theorem State.port_pri (s : State) : s.port .pri = s.pri := rfl

@[simp] theorem State.port_aux (s : State) : s.port .aux = s.aux := rfl

@[simp] theorem State.updPort_port_same (s : State) (p : PortId) (f : Port → Port) : (s.updPort p f).port p = f (s.port p) := by cases p <;> rfl

theorem State.updPort_port_other (s : State) (p q : PortId) (f : Port → Port) (h : q ≠ p) : (s.updPort p f).port q = s.port q :=
  State.setPort_port_other s p q _ h

@[simp] theorem State.setPort_cfg (s : State) (p : PortId) (P : Port) : (s.setPort p P).cfg = s.cfg := by cases p <;> rfl
@[simp] theorem State.setPort_pending (s : State) (p : PortId) (P : Port) : (s.setPort p P).pending = s.pending := by cases p <;> rfl
@[simp] theorem State.setPort_nv (s : State) (p : PortId) (P : Port) : (s.setPort p P).nv = s.nv := by cases p <;> rfl
@[simp] theorem State.setPort_outq (s : State) (p : PortId) (P : Port) : (s.setPort p P).outq = s.outq := by cases p <;> rfl
@[simp] theorem State.setPort_ibf (s : State) (p : PortId) (P : Port) : (s.setPort p P).ibf = s.ibf := by cases p <;> rfl
@[simp] theorem State.setPort_inByte (s : State) (p : PortId) (P : Port) : (s.setPort p P).inByte = s.inByte := by cases p <;> rfl
@[simp] theorem State.setPort_inTag (s : State) (p : PortId) (P : Port) : (s.setPort p P).inTag = s.inTag := by cases p <;> rfl
@[simp] theorem State.setPort_outLatch (s : State) (p : PortId) (P : Port) : (s.setPort p P).outLatch = s.outLatch := by cases p <;> rfl
@[simp] theorem State.setPort_trace (s : State) (p : PortId) (P : Port) : (s.setPort p P).trace = s.trace := by cases p <;> rfl
@[simp] theorem State.setPort_busLog (s : State) (p : PortId) (P : Port) : (s.setPort p P).busLog = s.busLog := by cases p <;> rfl
@[simp] theorem State.setPort_hostReads (s : State) (p : PortId) (P : Port) : (s.setPort p P).hostReads = s.hostReads := by cases p <;> rfl
@[simp] theorem State.setPort_phase (s : State) (p : PortId) (P : Port) : (s.setPort p P).phase = s.phase := by cases p <;> rfl
@[simp] theorem State.setPort_agenda (s : State) (p : PortId) (P : Port) : (s.setPort p P).agenda = s.agenda := by cases p <;> rfl
@[simp] theorem State.setPort_freeCount (s : State) (p : PortId) (P : Port) : (s.setPort p P).freeCount = s.freeCount := by cases p <;> rfl
@[simp] theorem State.setPort_resetCodes (s : State) (p : PortId) (P : Port) : (s.setPort p P).resetCodes = s.resetCodes := by cases p <;> rfl

@[simp] theorem State.updPort_cfg (s : State) (p : PortId) (f : Port → Port) : (s.updPort p f).cfg = s.cfg := by cases p <;> rfl
@[simp] theorem State.updPort_pending (s : State) (p : PortId) (f : Port → Port) : (s.updPort p f).pending = s.pending := by cases p <;> rfl
@[simp] theorem State.updPort_nv (s : State) (p : PortId) (f : Port → Port) : (s.updPort p f).nv = s.nv := by cases p <;> rfl
@[simp] theorem State.updPort_outq (s : State) (p : PortId) (f : Port → Port) : (s.updPort p f).outq = s.outq := by cases p <;> rfl
@[simp] theorem State.updPort_ibf (s : State) (p : PortId) (f : Port → Port) : (s.updPort p f).ibf = s.ibf := by cases p <;> rfl
@[simp] theorem State.updPort_inByte (s : State) (p : PortId) (f : Port → Port) : (s.updPort p f).inByte = s.inByte := by cases p <;> rfl
@[simp] theorem State.updPort_inTag (s : State) (p : PortId) (f : Port → Port) : (s.updPort p f).inTag = s.inTag := by cases p <;> rfl
@[simp] theorem State.updPort_outLatch (s : State) (p : PortId) (f : Port → Port) : (s.updPort p f).outLatch = s.outLatch := by cases p <;> rfl
@[simp] theorem State.updPort_trace (s : State) (p : PortId) (f : Port → Port) : (s.updPort p f).trace = s.trace := by cases p <;> rfl
@[simp] theorem State.updPort_busLog (s : State) (p : PortId) (f : Port → Port) : (s.updPort p f).busLog = s.busLog := by cases p <;> rfl
@[simp] theorem State.updPort_hostReads (s : State) (p : PortId) (f : Port → Port) : (s.updPort p f).hostReads = s.hostReads := by cases p <;> rfl
@[simp] theorem State.updPort_phase (s : State) (p : PortId) (f : Port → Port) : (s.updPort p f).phase = s.phase := by cases p <;> rfl
@[simp] theorem State.updPort_agenda (s : State) (p : PortId) (f : Port → Port) : (s.updPort p f).agenda = s.agenda := by cases p <;> rfl
@[simp] theorem State.updPort_freeCount (s : State) (p : PortId) (f : Port → Port) : (s.updPort p f).freeCount = s.freeCount := by cases p <;> rfl
@[simp] theorem State.updPort_resetCodes (s : State) (p : PortId) (f : Port → Port) : (s.updPort p f).resetCodes = s.resetCodes := by cases p <;> rfl

/-- A port operation that changes nothing changes no state. -/
theorem State.updPort_of_fixed (s : State) (p : PortId) (f : Port → Port) (h : f (s.port p) = s.port p) : s.updPort p f = s := by
  rw [State.updPort, h, State.setPort_port_self]

end Sys2Proof.Machine
end

