-- ==== Sys2Proof/Laws/Transceiver.lean ====
section
/-! SUPPORT. What the transceiver's operations do to a port, and that each keeps a legal port legal. -/

namespace Sys2Proof.Machine

/-! ### The edge handler -/

theorem Port.edge_of_inhibited (d : Level) {P : Port} (h : P.inhibited = true) : P.edge d = P := by
  simp [Port.edge, h]

theorem Port.edge_of_enabled (d : Level) {P : Port} (h : P.inhibited = false) :
    P.edge d = Port.servicedEdge d { P with timeoutCounter := 0 } := by
  simp [Port.edge, h]

/-- All that a serviced edge can do (R142 to R147, R162 to R165). -/
theorem Port.servicedEdge_cases (d : Level) (P : Port) :
    (P.link = .idle ∧ d = true ∧ P.servicedEdge d = P) ∨
    (P.link = .idle ∧ d = false ∧ P.servicedEdge d = P.startReception) ∨
    (P.link = .receiving ∧ P.bitCount < 8 ∧ P.servicedEdge d = P.receiveDataBit d) ∨
    (P.link = .receiving ∧ P.bitCount = 8 ∧ P.servicedEdge d = P.receiveParityBit d) ∨
    (P.link = .receiving ∧ 8 < P.bitCount ∧ P.servicedEdge d = P.receiveStopBit d) ∨
    (P.link = .transmitting ∧ P.bitCount < 8 ∧ P.servicedEdge d = P.sendDataBit) ∨
    (P.link = .transmitting ∧ P.bitCount = 8 ∧ P.servicedEdge d = P.sendParityBit) ∨
    (P.link = .transmitting ∧ 8 < P.bitCount ∧ P.servicedEdge d = P.sendStopBit) ∨
    (P.link = .transmitAck ∧ P.servicedEdge d = P.endTransmission) := by
  rcases Nat.lt_trichotomy P.bitCount 8 with h | h | h <;> cases hl : P.link <;> cases d <;>
    simp [Port.servicedEdge, hl, h, Nat.not_lt_of_gt, Nat.ne_of_gt]

theorem Port.receiveStopBit_cases (d : Level) (P : Port) :
    (d = true ∧ P.runningParity = true ∧ P.receiveStopBit d = Port.toIdle (Port.pushReceive P.shiftRegister P)) ∨
    ((d = false ∨ P.runningParity = false) ∧ P.receiveStopBit d = Port.toIdle P) := by
  cases d <;> cases h : P.runningParity <;> simp [Port.receiveStopBit, h]

/-- A serviced edge leaves the inhibit flag, the clock drive and the transmit queue alone (R75). -/
theorem Port.servicedEdge_frame (d : Level) (P : Port) :
    (P.servicedEdge d).inhibited = P.inhibited ∧ (P.servicedEdge d).clkDriveLow = P.clkDriveLow ∧
      (P.servicedEdge d).transmitQueue = P.transmitQueue := by
  rcases P.servicedEdge_cases d with ⟨_, _, h⟩ | ⟨_, _, h⟩ | ⟨_, _, h⟩ | ⟨_, _, h⟩ | ⟨_, _, h⟩ | ⟨_, _, h⟩ | ⟨_, _, h⟩ |
    ⟨_, _, h⟩ | ⟨_, h⟩ <;> rw [h]
  · simp
  · simp [Port.startReception]
  · simp [Port.receiveDataBit]
  · simp [Port.receiveParityBit]
  · rcases P.receiveStopBit_cases d with ⟨_, _, h⟩ | ⟨_, h⟩ <;> rw [h] <;> simp
  · simp [Port.sendDataBit]
  · simp [Port.sendParityBit]
  · simp [Port.sendStopBit]
  · simp [Port.endTransmission]

theorem Port.edge_frame (d : Level) (P : Port) :
    (P.edge d).inhibited = P.inhibited ∧ (P.edge d).clkDriveLow = P.clkDriveLow ∧
      (P.edge d).transmitQueue = P.transmitQueue := by
  cases h : P.inhibited
  · rw [Port.edge_of_enabled d h]; simpa [h] using Port.servicedEdge_frame d { P with timeoutCounter := 0 }
  · rw [Port.edge_of_inhibited d h]; simp [h]

/-- A serviced edge keeps a legal port legal. -/
theorem Port.servicedEdge_inv (d : Level) {P : Port} (hP : P.Inv) (ht : P.timeoutCounter = 0) : (P.servicedEdge d).Inv := by
  obtain ⟨hs, ⟨hrq, htq⟩, -, hc, hd⟩ := hP
  have hq : ∀ b, (Queue.push Config.ps2QueueSlots P.receiveQueue b).length < Config.ps2QueueSlots :=
    fun b => Queue.push_length_lt b hrq
  rcases P.servicedEdge_cases d with ⟨hl, _, h⟩ | ⟨hl, _, h⟩ | ⟨hl, hb, h⟩ | ⟨hl, hb, h⟩ | ⟨hl, hb, h⟩ | ⟨hl, hb, h⟩ |
    ⟨hl, hb, h⟩ | ⟨hl, hb, h⟩ | ⟨hl, h⟩ <;> rw [h] <;> simp only [hl, reduceCtorEq, or_false, or_true, or_self, forall_const] at hd
  · have hs : P.bitCount = 0 := by simpa [Port.sequencerOk, hl] using hs
    exact ⟨.inl ⟨hl, hs⟩, ⟨hrq, htq⟩, ⟨by omega, fun _ => ht⟩, hc, fun _ => hd⟩
  · exact ⟨.inr (.inl ⟨rfl, Nat.zero_le _⟩), ⟨hrq, htq⟩, ⟨by simp [Port.startReception, ht], fun _ => ht⟩, hc, fun _ => hd⟩
  · refine ⟨.inr (.inl ⟨hl, ?_⟩), ⟨hrq, htq⟩, ⟨by simp [Port.receiveDataBit, ht], fun _ => ht⟩, hc, fun _ => hd⟩
    simp only [Port.receiveDataBit]; omega
  · exact ⟨.inr (.inl ⟨hl, Nat.le_refl 9⟩), ⟨hrq, htq⟩, ⟨by simp [Port.receiveParityBit, ht], fun _ => ht⟩, hc, fun _ => hd⟩
  · rcases P.receiveStopBit_cases d with ⟨_, _, h⟩ | ⟨_, h⟩ <;> rw [h]
    · exact ⟨.inl ⟨rfl, rfl⟩, ⟨hq _, htq⟩, ⟨by simp [ht], fun _ => ht⟩, hc, fun _ => hd⟩
    · exact ⟨.inl ⟨rfl, rfl⟩, ⟨hrq, htq⟩, ⟨by simp [ht], fun _ => ht⟩, hc, fun _ => hd⟩
  · refine ⟨.inr (.inr (.inl ⟨hl, ?_⟩)), ⟨hrq, htq⟩, ⟨by simp [Port.sendDataBit, ht], fun _ => ht⟩, hc, ?_⟩
    · simp only [Port.sendDataBit, Port.driveData_bitCount]; omega
    · simp [Port.sendDataBit, hl]
  · exact ⟨.inr (.inr (.inl ⟨hl, Nat.le_refl 9⟩)), ⟨hrq, htq⟩, ⟨by simp [Port.sendParityBit, ht], fun _ => ht⟩, hc,
      by simp [Port.sendParityBit, hl]⟩
  · exact ⟨.inr (.inr (.inr ⟨rfl, rfl⟩)), ⟨hrq, htq⟩, ⟨by simp [Port.sendStopBit, ht], fun _ => ht⟩, hc, fun _ => rfl⟩
  · exact ⟨.inl ⟨rfl, rfl⟩, ⟨hrq, htq⟩, ⟨by simp [Port.endTransmission, ht], fun _ => ht⟩, hc, fun _ => rfl⟩

/-- The edge handler keeps a legal port legal. -/
theorem Port.edge_inv (d : Level) {P : Port} (hP : P.Inv) : (P.edge d).Inv := by
  cases h : P.inhibited
  · rw [Port.edge_of_enabled d h]
    exact Port.servicedEdge_inv d ⟨hP.1, hP.2.1, ⟨Nat.zero_le _, fun _ => rfl⟩, hP.2.2.2⟩ rfl
  · rw [Port.edge_of_inhibited d h]; exact hP

/-! ### `TxStart` -/

/-- When a transmission starts, and what it does (R160). -/
theorem Port.txStart_of_ready {P : Port} {b : Byte} {rest : List Byte} (hl : P.link = .idle)
    (hq : P.transmitQueue = b :: rest) :
    P.txStart = { P with
      link := .transmitting, bitCount := 0, txByte := b, runningParity := false, transmitQueue := rest
      clkDriveLow := false, dataDriveLow := true
      lineLog := P.lineLog ++ [.clk true, .wait Config.rtsHold, .wait Config.rtsGuard, .data true, .clk false] } := by
  simp [Port.txStart, hl, hq, Port.requestToSend, Port.driveClk, Port.driveData, Port.busyWait]

theorem Port.txStart_of_busy {P : Port} (h : P.link ≠ .idle) : P.txStart = P := by simp [Port.txStart, h]

theorem Port.txStart_of_empty {P : Port} (h : P.transmitQueue = []) : P.txStart = P := by simp [Port.txStart, h]

/-- All that `TxStart` can do. -/
theorem Port.txStart_cases (P : Port) :
    (P.txStart = P) ∨ ∃ b rest, P.link = .idle ∧ P.transmitQueue = b :: rest := by
  by_cases hl : P.link = .idle
  · cases hq : P.transmitQueue with
    | nil => exact .inl (Port.txStart_of_empty hq)
    | cons b rest => exact .inr ⟨b, rest, hl, rfl⟩
  · exact .inl (Port.txStart_of_busy hl)

theorem Port.txStart_frame (P : Port) :
    P.txStart.inhibited = P.inhibited ∧ P.txStart.receiveQueue = P.receiveQueue ∧
      P.txStart.timeoutCounter = P.timeoutCounter ∧ P.txStart.shiftRegister = P.shiftRegister := by
  rcases P.txStart_cases with h | ⟨b, rest, hl, hq⟩
  · simp [h]
  · simp [Port.txStart_of_ready hl hq]

theorem Port.txStart_inv {P : Port} (hP : P.Inv) : P.txStart.Inv := by
  rcases P.txStart_cases with h | ⟨b, rest, hl, hq⟩
  · rwa [h]
  · obtain ⟨-, ⟨hrq, htq⟩, ⟨ht, ht0⟩, -, -⟩ := hP
    rw [Port.txStart_of_ready hl hq]
    rw [hq] at htq
    refine ⟨.inr (.inr (.inl ⟨rfl, Nat.zero_le _⟩)), ⟨hrq, Nat.lt_of_succ_lt htq⟩, ⟨ht, fun _ => ht0 hl⟩, ?_, ?_⟩ <;> simp

/-! ### `TimeoutStep` -/

/-- Recovery: idle, both lines released, the counter cleared, the rest kept (R170). -/
theorem Port.recover_eq (P : Port) :
    P.recover = { P with
      link := .idle, bitCount := 0, timeoutCounter := 0, clkDriveLow := false, dataDriveLow := false
      lineLog := P.lineLog ++ [.clk false, .data false] } := by
  simp [Port.recover, Port.toIdle, Port.driveClk, Port.driveData]

/-- All that `TimeoutStep` can do. -/
theorem Port.timeoutStep_cases (P : Port) :
    (P.link = .idle ∧ P.timeoutStep = P) ∨
    (P.link ≠ .idle ∧ Config.timeoutThreshold ≤ P.timeoutCounter ∧ P.timeoutStep = P.recover) ∨
    (P.link ≠ .idle ∧ P.timeoutCounter < Config.timeoutThreshold ∧
      P.timeoutStep = { P with timeoutCounter := P.timeoutCounter + 1 }) := by
  by_cases hl : P.link = .idle
  · exact .inl ⟨hl, by simp [Port.timeoutStep, hl]⟩
  · by_cases ht : P.timeoutCounter + 1 > Config.timeoutThreshold
    · exact .inr (.inl ⟨hl, by omega, by simp [Port.timeoutStep, hl, ht]⟩)
    · exact .inr (.inr ⟨hl, by omega, by simp [Port.timeoutStep, hl, ht]⟩)

theorem Port.timeoutStep_frame (P : Port) :
    P.timeoutStep.inhibited = P.inhibited ∧ P.timeoutStep.receiveQueue = P.receiveQueue ∧
      P.timeoutStep.transmitQueue = P.transmitQueue := by
  rcases P.timeoutStep_cases with ⟨_, h⟩ | ⟨_, _, h⟩ | ⟨_, _, h⟩ <;> rw [h]
  · simp
  · simp [Port.recover_eq]
  · simp

theorem Port.timeoutStep_inv {P : Port} (hP : P.Inv) : P.timeoutStep.Inv := by
  rcases P.timeoutStep_cases with ⟨_, h⟩ | ⟨_, _, h⟩ | ⟨hl, ht, h⟩ <;> rw [h]
  · exact hP
  · rw [Port.recover_eq]
    exact ⟨.inl ⟨rfl, rfl⟩, hP.2.1, ⟨Nat.zero_le _, fun _ => rfl⟩, by simp, fun _ => rfl⟩
  · exact ⟨hP.1, hP.2.1, ⟨ht, fun h => absurd h hl⟩, hP.2.2.2⟩

/-! ### Inhibit and the queues -/

theorem Port.setInhibit_inv (v : Bool) {P : Port} (hP : P.Inv) : (P.setInhibit v).Inv :=
  ⟨hP.1, hP.2.1, hP.2.2.1, fun h => h, hP.2.2.2.2⟩

theorem Port.pushTransmit_inv (b : Byte) {P : Port} (hP : P.Inv) : (P.pushTransmit b).Inv :=
  ⟨hP.1, ⟨hP.2.1.1, Queue.push_length_lt b hP.2.1.2⟩, hP.2.2⟩

/-- Taking items out of the receive queue keeps a legal port legal. -/
theorem Port.shrinkReceive_inv {P : Port} {q : List Byte} (hP : P.Inv) (hq : q.length ≤ P.receiveQueue.length) :
    Port.Inv { P with receiveQueue := q } :=
  ⟨hP.1, ⟨Nat.lt_of_le_of_lt hq hP.2.1.1, hP.2.1.2⟩, hP.2.2⟩

end Sys2Proof.Machine
end

