-- ==== Sys2Proof/Laws/Exec.lean ====
section
/-! SUPPORT. The shared parts of the meanings, what no instruction changes, and that every well-formed instruction keeps a
legal state legal. -/

namespace Sys2Proof.Machine

/-! ### Bits of the configuration register -/

theorem byteBit_set_kbd (c : Byte) : byteBit (setByteBit c cfgKeyboardDisabled) cfgKeyboardDisabled = true := by
  simp [byteBit, setByteBit, cfgKeyboardDisabled]

theorem byteBit_set_aux (c : Byte) : byteBit (setByteBit c cfgAuxiliaryDisabled) cfgAuxiliaryDisabled = true := by
  simp [byteBit, setByteBit, cfgAuxiliaryDisabled]

theorem byteBit_set_kbd_aux (c : Byte) :
    byteBit (setByteBit c cfgKeyboardDisabled) cfgAuxiliaryDisabled = byteBit c cfgAuxiliaryDisabled := by
  simp [byteBit, setByteBit, cfgKeyboardDisabled, cfgAuxiliaryDisabled]

theorem byteBit_set_aux_kbd (c : Byte) :
    byteBit (setByteBit c cfgAuxiliaryDisabled) cfgKeyboardDisabled = byteBit c cfgKeyboardDisabled := by
  simp [byteBit, setByteBit, cfgKeyboardDisabled, cfgAuxiliaryDisabled]

theorem byteBit_clear_kbd (c : Byte) : byteBit (clearByteBit c cfgKeyboardDisabled) cfgKeyboardDisabled = false := by
  simp [byteBit, clearByteBit, cfgKeyboardDisabled]

theorem byteBit_clear_aux (c : Byte) : byteBit (clearByteBit c cfgAuxiliaryDisabled) cfgAuxiliaryDisabled = false := by
  simp [byteBit, clearByteBit, cfgAuxiliaryDisabled]

theorem byteBit_clear_kbd_aux (c : Byte) :
    byteBit (clearByteBit c cfgKeyboardDisabled) cfgAuxiliaryDisabled = byteBit c cfgAuxiliaryDisabled := by
  simp [byteBit, clearByteBit, cfgKeyboardDisabled, cfgAuxiliaryDisabled]

theorem byteBit_clear_aux_kbd (c : Byte) :
    byteBit (clearByteBit c cfgAuxiliaryDisabled) cfgKeyboardDisabled = byteBit c cfgKeyboardDisabled := by
  simp [byteBit, clearByteBit, cfgKeyboardDisabled, cfgAuxiliaryDisabled]

/-! ### What the shared operations leave -/

theorem setInhibit_pri (v : Bool) (s : State) : setInhibit .pri v s = { s with pri := s.pri.setInhibit v } := rfl

theorem setInhibit_aux (v : Bool) (s : State) : setInhibit .aux v s = { s with aux := s.aux.setInhibit v } := rfl

theorem writeCfg_eq (v : Byte) (s : State) :
    writeCfg v s = { s with
      cfg := v
      pri := s.pri.setInhibit (byteBit v cfgKeyboardDisabled)
      aux := s.aux.setInhibit (byteBit v cfgAuxiliaryDisabled) } := rfl

theorem disableChannel_pri (s : State) : disableChannel .pri s =
    { s with cfg := setByteBit s.cfg cfgKeyboardDisabled, pri := s.pri.setInhibit true } := rfl

theorem disableChannel_aux (s : State) : disableChannel .aux s =
    { s with cfg := setByteBit s.cfg cfgAuxiliaryDisabled, aux := s.aux.setInhibit true } := rfl

theorem enableChannel_pri (s : State) : enableChannel .pri s =
    { s with cfg := clearByteBit s.cfg cfgKeyboardDisabled, pri := s.pri.setInhibit false } := rfl

theorem enableChannel_aux (s : State) : enableChannel .aux s =
    { s with cfg := clearByteBit s.cfg cfgAuxiliaryDisabled, aux := s.aux.setInhibit false } := rfl

theorem pushTransmit_pri (b : Byte) (s : State) : pushTransmit .pri b s = { s with pri := s.pri.pushTransmit b } := rfl

theorem pushTransmit_aux (b : Byte) (s : State) : pushTransmit .aux b s = { s with aux := s.aux.pushTransmit b } := rfl

theorem isNvAddr_iff (a : StorageAddr) : isNvAddr a = true ↔ Config.nvLo ≤ a.toNat ∧ a.toNat ≤ Config.nvHi := by
  simp [isNvAddr]

theorem ne_zero_of_isNvAddr {a : StorageAddr} (h : isNvAddr a = true) : a ≠ 0 := by
  rintro rfl
  exact absurd h (by decide)

theorem memRead_of_isNvAddr (s : State) {a : StorageAddr} (h : isNvAddr a = true) :
    memRead s a = some (Memory.read s.nv a.toNat) := by
  rw [memRead, if_neg (ne_zero_of_isNvAddr h), if_pos h]

theorem memWrite_of_isNvAddr (s : State) {a : StorageAddr} (v : Byte) (h : isNvAddr a = true) :
    memWrite s a v = some { s with nv := Memory.write s.nv a.toNat v } := by
  rw [memWrite, if_neg (ne_zero_of_isNvAddr h), if_pos h]

/-- All that `MemWrite` can do: the register, one byte of the store, or address 31's nothing (R61, R64). -/
theorem memWrite_cases (s : State) (a : StorageAddr) (v : Byte) :
    memWrite s a v = some (writeCfg v s) ∨ memWrite s a v = some { s with nv := Memory.write s.nv a.toNat v } ∨
      memWrite s a v = none := by
  unfold memWrite
  split
  · exact .inl rfl
  · split
    · exact .inr (.inl rfl)
    · exact .inr (.inr rfl)

/-! ### The meanings -/

/-- What the reset command leaves of a port, once its inhibit is mirrored (R331, R332). -/
theorem Port.commandReset_eq (n : Nat) (P : Port) : P.commandReset n = { P with
    link := .idle, bitCount := 0, timeoutCounter := 0, dataDriveLow := false
    lineLog := P.lineLog ++ [.data false]
    receiveQueue := Queue.drawFrom n 0 P.receiveQueue
    transmitQueue := Queue.drawFrom (n + 1) 0 P.transmitQueue
    shiftRegister := Config.freeByte (n + 2), txByte := Config.freeByte (n + 3)
    runningParity := Config.freeBit (n + 4) } := rfl

theorem Port.commandReset_inv (n : Nat) {P : Port} (hP : P.Inv) : (P.commandReset n).Inv := by
  rw [Port.commandReset_eq]
  exact ⟨.inl ⟨rfl, rfl⟩,
    ⟨Nat.lt_of_le_of_lt (Queue.drawFrom_length_le _ _ _) hP.2.1.1,
      Nat.lt_of_le_of_lt (Queue.drawFrom_length_le _ _ _) hP.2.1.2⟩,
    ⟨Nat.zero_le _, fun _ => rfl⟩, hP.2.2.2.1, fun _ => rfl⟩

/-- The reset command as one update of the state (R331, R332). -/
theorem commandReset_eq (s : State) : commandReset s = { s with
    cfg := Config.configReset
    pri := (s.pri.setInhibit (byteBit Config.configReset cfgKeyboardDisabled)).commandReset s.freeCount
    aux := (s.aux.setInhibit (byteBit Config.configReset cfgAuxiliaryDisabled)).commandReset (s.freeCount + 5)
    outq := Queue.drawFrom (s.freeCount + 10) 0 s.outq
    pending := .none
    freeCount := s.freeCount + 11 } := rfl

/-- What no instruction ever changes: the two external latches, the records, the place in the pass, the agenda. -/
theorem exec_frame {i : Instr} {s t : State} (h : exec i s = .next t) :
    t.ibf = s.ibf ∧ t.inByte = s.inByte ∧ t.inTag = s.inTag ∧ t.outLatch = s.outLatch ∧ t.trace = s.trace ∧
      t.busLog = s.busLog ∧ t.hostReads = s.hostReads ∧ t.phase = s.phase ∧ t.agenda = s.agenda ∧
      t.resetCodes = s.resetCodes := by
  cases i
  case rdnv a =>
    simp only [exec, execRdnv] at h
    split at h
    · cases h; exact ⟨rfl, rfl, rfl, rfl, rfl, rfl, rfl, rfl, rfl, rfl⟩
    · cases h
  case operandWrnv a tg b =>
    simp only [exec, execOperandWrnv] at h
    rcases memWrite_cases s a b with hm | hm | hm <;> rw [hm] at h <;> cases h <;>
      exact ⟨rfl, rfl, rfl, rfl, rfl, rfl, rfl, rfl, rfl, rfl⟩
  all_goals
    cases h
    exact ⟨rfl, rfl, rfl, rfl, rfl, rfl, rfl, rfl, rfl, rfl⟩

/-- The parts of a legal state that an update of the queue, the pending state and the store must show again. -/
theorem State.inv_of_parts {s : State} (hp : s.pri.Inv) (ha : s.aux.Inv) (hm : s.mirror) (hpend : s.pending.wf = true)
    (hwf : Memory.wf s.nv) (hin : Memory.inStore s.nv) (hq : s.outq.length < Config.outQueueSlots) (hl : s.latchOk) :
    s.Inv := ⟨hp, ha, hm, hpend, hwf, hin, hq, hl⟩

theorem setPending_inv {s : State} {m : Pending} (h : s.Inv) (hm : m.wf = true) : (setPending m s).Inv :=
  ⟨h.1, h.2.1, h.2.2.1, hm, h.2.2.2.2⟩

theorem enqueue_inv {s : State} (b : Byte) (f : Bool) (h : s.Inv) : (enqueue b f s).Inv :=
  ⟨h.1, h.2.1, h.2.2.1, h.2.2.2.1, h.2.2.2.2.1, h.2.2.2.2.2.1, Queue.push_length_lt _ h.2.2.2.2.2.2.1, h.2.2.2.2.2.2.2⟩

theorem writeCfg_inv {s : State} (v : Byte) (h : s.Inv) : (writeCfg v s).Inv :=
  ⟨Port.setInhibit_inv _ h.1, Port.setInhibit_inv _ h.2.1, ⟨rfl, rfl⟩, h.2.2.2⟩

theorem disableChannel_inv {s : State} (p : PortId) (h : s.Inv) : (disableChannel p s).Inv := by
  cases p
  · exact ⟨Port.setInhibit_inv _ h.1, h.2.1, ⟨(byteBit_set_kbd _).symm, h.2.2.1.2.trans (byteBit_set_kbd_aux _).symm⟩, h.2.2.2⟩
  · exact ⟨h.1, Port.setInhibit_inv _ h.2.1, ⟨h.2.2.1.1.trans (byteBit_set_aux_kbd _).symm, (byteBit_set_aux _).symm⟩, h.2.2.2⟩

theorem enableChannel_inv {s : State} (p : PortId) (h : s.Inv) : (enableChannel p s).Inv := by
  cases p
  · exact ⟨Port.setInhibit_inv _ h.1, h.2.1, ⟨(byteBit_clear_kbd _).symm, h.2.2.1.2.trans (byteBit_clear_kbd_aux _).symm⟩, h.2.2.2⟩
  · exact ⟨h.1, Port.setInhibit_inv _ h.2.1, ⟨h.2.2.1.1.trans (byteBit_clear_aux_kbd _).symm, (byteBit_clear_aux _).symm⟩, h.2.2.2⟩

theorem pushTransmit_inv {s : State} (p : PortId) (b : Byte) (h : s.Inv) : (pushTransmit p b s).Inv := by
  cases p
  · exact ⟨Port.pushTransmit_inv b h.1, h.2⟩
  · exact ⟨h.1, Port.pushTransmit_inv b h.2.1, h.2.2⟩

theorem commandReset_inv {s : State} (h : s.Inv) : (commandReset s).Inv :=
  ⟨Port.commandReset_inv _ (Port.setInhibit_inv _ h.1), Port.commandReset_inv _ (Port.setInhibit_inv _ h.2.1), ⟨rfl, rfl⟩, rfl,
    h.2.2.2.2.1, h.2.2.2.2.2.1, Nat.lt_of_le_of_lt (Queue.drawFrom_length_le _ _ _) h.2.2.2.2.2.2.1, h.2.2.2.2.2.2.2⟩

theorem storeWrite_inv {s : State} {a : StorageAddr} (v : Byte) (ha : isNvAddr a = true) (h : s.Inv) :
    State.Inv { s with nv := Memory.write s.nv a.toNat v } :=
  ⟨h.1, h.2.1, h.2.2.1, h.2.2.2.1, Memory.write_wf h.2.2.2.2.1 _ _,
    Memory.write_inStore h.2.2.2.2.2.1 v ((isNvAddr_iff a).1 ha), h.2.2.2.2.2.2⟩

/-- Every well-formed instruction completes, and a legal state stays legal. -/
theorem exec_wf {resets : List Byte} {i : Instr} (hi : i.wf resets = true) (s : State) : ∃ t, exec i s = .next t ∧ (s.Inv → t.Inv) := by
  cases i
  case rdnv a =>
    refine ⟨_, ?_, enqueue_inv (Memory.read s.nv a.toNat) responseFlag⟩
    simp only [exec, execRdnv, memRead_of_isNvAddr s hi]
    rfl
  case operandWrnv a t b =>
    refine ⟨setPending .none { s with nv := Memory.write s.nv a.toNat b }, ?_,
      fun h => setPending_inv (storeWrite_inv b hi h) rfl⟩
    simp only [exec, execOperandWrnv, memWrite_of_isNvAddr s b hi]
  case wrnv a => exact ⟨_, rfl, fun h => setPending_inv h hi⟩
  case wrcfg => exact ⟨_, rfl, fun h => setPending_inv h rfl⟩
  case wrout => exact ⟨_, rfl, fun h => setPending_inv h rfl⟩
  case wrkbdob => exact ⟨_, rfl, fun h => setPending_inv h rfl⟩
  case wrauxob => exact ⟨_, rfl, fun h => setPending_inv h rfl⟩
  case wrauxdev => exact ⟨_, rfl, fun h => setPending_inv h rfl⟩
  case auxdis => exact ⟨_, rfl, disableChannel_inv .aux⟩
  case auxen => exact ⟨_, rfl, enableChannel_inv .aux⟩
  case kbddis => exact ⟨_, rfl, disableChannel_inv .pri⟩
  case kbden => exact ⟨_, rfl, enableChannel_inv .pri⟩
  case reset c => exact ⟨_, rfl, commandReset_inv⟩
  case unk c => exact ⟨_, rfl, id⟩
  case data b => exact ⟨_, rfl, pushTransmit_inv .pri b⟩
  case operandWrcfg t b => exact ⟨_, rfl, fun h => setPending_inv (writeCfg_inv b h) rfl⟩
  case operandWrout t b => exact ⟨_, rfl, fun h => setPending_inv h rfl⟩
  case operandWrkbdob t b => exact ⟨_, rfl, fun h => setPending_inv (enqueue_inv b false h) rfl⟩
  case operandWrauxob t b => exact ⟨_, rfl, fun h => setPending_inv (enqueue_inv b true h) rfl⟩
  case operandWrauxdev t b => exact ⟨_, rfl, fun h => setPending_inv (pushTransmit_inv .aux b h) rfl⟩
  all_goals exact ⟨_, rfl, enqueue_inv _ responseFlag⟩

end Sys2Proof.Machine
end

