-- ==== Sys2Proof/Laws/PerInstr.lean ====
section
/-! SUPPORT. Per-instruction families. `WordForm`: the 9 bits of an instruction's word hold the word whole (spec/30_encoding.md
R95), and of the instructions read with nothing pending the data port's is the only one with the data tag (R97, R98). -/

namespace Sys2Proof.Laws.WordForm

/-- What the family says of an instruction's word. -/
def Statement (i : Instr) : Prop :=
  HostWord.ofBits (encode i).toBits = encode i ∧ (i.mode = .none → ((encode i).tag = .data ↔ ∃ b, i = .data b))

/-- A word is what its 9 bits say. -/
theorem ofBits_toBits (w : HostWord) : HostWord.ofBits w.toBits = w := by
  obtain ⟨t, b⟩ := w
  have low : ∀ (x : BitVec 1) (y : BitVec 8), (x ++ y).extractLsb' 0 8 = y := by decide
  have high : ∀ (x : BitVec 1) (y : BitVec 8), (x ++ y).extractLsb' 8 1 = x := by decide
  simp only [HostWord.toBits, HostWord.ofBits, low, high, HostWord.mk.injEq, and_true]
  cases t <;> rfl

theorem of_command (i : Instr) (ht : encodeTag i = .cmd) (hd : ∀ b, i ≠ .data b) : Statement i :=
  ⟨ofBits_toBits _, fun _ => ⟨fun h => absurd (ht.symm.trans h) nofun, fun ⟨b, h⟩ => absurd h (hd b)⟩⟩

theorem of_data (b : Byte) : Statement (.data b) := ⟨ofBits_toBits _, fun _ => ⟨fun _ => ⟨b, rfl⟩, fun _ => rfl⟩⟩

theorem of_operand (i : Instr) (hm : i.mode ≠ .none) : Statement i := ⟨ofBits_toBits _, fun h => absurd h hm⟩

theorem rdcfg : Statement .rdcfg := of_command _ rfl nofun
theorem rdnv (a : StorageAddr) : Statement (.rdnv a) := of_command _ rfl nofun
theorem wrcfg : Statement .wrcfg := of_command _ rfl nofun
theorem wrnv (a : StorageAddr) : Statement (.wrnv a) := of_command _ rfl nofun
theorem auxdis : Statement .auxdis := of_command _ rfl nofun
theorem auxen : Statement .auxen := of_command _ rfl nofun
theorem auxtest : Statement .auxtest := of_command _ rfl nofun
theorem selftest : Statement .selftest := of_command _ rfl nofun
theorem kbdtest : Statement .kbdtest := of_command _ rfl nofun
theorem kbddis : Statement .kbddis := of_command _ rfl nofun
theorem kbden : Statement .kbden := of_command _ rfl nofun
theorem rdinp : Statement .rdinp := of_command _ rfl nofun
theorem rdout : Statement .rdout := of_command _ rfl nofun
theorem wrout : Statement .wrout := of_command _ rfl nofun
theorem wrkbdob : Statement .wrkbdob := of_command _ rfl nofun
theorem wrauxob : Statement .wrauxob := of_command _ rfl nofun
theorem wrauxdev : Statement .wrauxdev := of_command _ rfl nofun
theorem reset (c : Byte) : Statement (.reset c) := of_command _ rfl nofun
theorem unk (c : Byte) : Statement (.unk c) := of_command _ rfl nofun
theorem data (b : Byte) : Statement (.data b) := of_data b
theorem operandWrcfg (t : Tag) (b : Byte) : Statement (.operandWrcfg t b) := of_operand _ nofun
theorem operandWrout (t : Tag) (b : Byte) : Statement (.operandWrout t b) := of_operand _ nofun
theorem operandWrkbdob (t : Tag) (b : Byte) : Statement (.operandWrkbdob t b) := of_operand _ nofun
theorem operandWrauxob (t : Tag) (b : Byte) : Statement (.operandWrauxob t b) := of_operand _ nofun
theorem operandWrauxdev (t : Tag) (b : Byte) : Statement (.operandWrauxdev t b) := of_operand _ nofun
theorem operandWrnv (a : StorageAddr) (t : Tag) (b : Byte) : Statement (.operandWrnv a t b) := of_operand _ nofun

end Sys2Proof.Laws.WordForm
end

