-- ==== Sys2Proof/Laws/Scheduler.lean ====
section
/-! SUPPORT. What the bridge, one sub-step and one step can do. -/

namespace Sys2Proof.Machine

theorem forward_of_empty {p : PortId} {s : State} (h : (s.port p).receiveQueue = []) : forward p s = s := by
  simp [forward, h]

theorem forward_of_cons {p : PortId} {s : State} {b : Byte} {rest : List Byte}
    (h : (s.port p).receiveQueue = b :: rest) :
    forward p s = enqueue b (channelFlag p) (s.updPort p (fun P => { P with receiveQueue := rest })) := by
  simp [forward, h]

theorem pumpOutput_of_cons {s : State} {e : OutEntry} {rest : List OutEntry} (h : s.outq = e :: rest) :
    pumpOutput s = .next (latchOutput e { s with outq := rest }) := by
  simp [pumpOutput, hasPendingOutput, h]

theorem pumpOutput_of_nil {s : State} (h : s.outq = []) : pumpOutput s = .refused .pumpOutputEmpty := by
  simp [pumpOutput, hasPendingOutput, h]

theorem serviceInput_of_ready {s : State} (h : s.ibf = true) :
    serviceInput s = exec (decode s.resetCodes s.pending { tag := s.inTag, byte := s.inByte }) (clearInput s) := by
  simp [serviceInput, isInputReady, readInput, h, dispatch]

theorem serviceInput_of_not_ready {s : State} (h : s.ibf = false) : serviceInput s = .next s := by
  simp [serviceInput, isInputReady, h]

theorem mapNext_eq_next {α β : Type} {f : α → β} {r : Host.Outcome α Fault Refusal} {b : β}
    (h : mapNext f r = .next b) : ∃ a, r = .next a ∧ b = f a := by
  cases r with
  | next a => exact ⟨a, rfl, by cases h; rfl⟩
  | fault => cases h
  | refused => cases h

@[simp] theorem mapNext_next {α β : Type} (f : α → β) (a : α) : mapNext f (.next a) = .next (f a) := rfl

/-- All that one main-loop sub-step can do when it answers a next state (R280). -/
theorem subStepWork_cases {k : SubStep} {s t : State} (h : subStepWork k s = .next t) :
    (∃ p, t = txStart p s) ∨ (∃ p, t = timeoutStep p s) ∨ (∃ p, t = forward p s) ∨
    (k = .pumpOutput ∧ ∃ e rest, s.outq = e :: rest ∧ t = latchOutput e { s with outq := rest }) ∨ t = s ∨
    (k = .serviceInput ∧ s.ibf = true ∧
      exec (decode s.resetCodes s.pending { tag := s.inTag, byte := s.inByte }) (clearInput s) = .next t) := by
  cases k <;> simp only [subStepWork, Host.Outcome.next.injEq] at h
  case txStartPri => exact .inl ⟨.pri, h.symm⟩
  case txStartAux => exact .inl ⟨.aux, h.symm⟩
  case timeoutPri => exact .inr (.inl ⟨.pri, h.symm⟩)
  case timeoutAux => exact .inr (.inl ⟨.aux, h.symm⟩)
  case forwardPri => exact .inr (.inr (.inl ⟨.pri, h.symm⟩))
  case forwardAux => exact .inr (.inr (.inl ⟨.aux, h.symm⟩))
  case pumpOutput =>
    cases hq : s.outq with
    | nil =>
      simp only [hasPendingOutput, hq, Queue.isEmpty_nil, Bool.not_true, Bool.false_eq_true, ↓reduceIte,
        Host.Outcome.next.injEq] at h
      exact .inr (.inr (.inr (.inr (.inl h.symm))))
    | cons e rest =>
      rw [pumpOutput_of_cons hq] at h
      simp only [hasPendingOutput, hq, Queue.isEmpty_cons, Bool.not_false, ↓reduceIte, Host.Outcome.next.injEq] at h
      exact .inr (.inr (.inr (.inl ⟨rfl, e, rest, rfl, h.symm⟩)))
  case serviceInput =>
    cases hb : s.ibf with
    | false =>
      rw [serviceInput_of_not_ready hb] at h
      cases h
      exact .inr (.inr (.inr (.inr (.inl rfl))))
    | true =>
      rw [serviceInput_of_ready hb] at h
      exact .inr (.inr (.inr (.inr (.inr ⟨rfl, rfl, h⟩))))

/-- All that one move can do when it answers a next state (R70). -/
theorem runMove_cases {m : Move} {s t : State} (h : runMove m s = .next t) :
    (m = .loop ∧ ∃ u, subStepWork s.phase s = .next u ∧ t = u.setPhase s.phase.succ) ∨
    (∃ p d, m = .edge p d ∧ t = edge p d s) ∨
    (∃ tg b, m = .hostWrite tg b ∧ s.ibf = false ∧ t = { s with ibf := true, inByte := b, inTag := tg }) ∨
    (m = .hostRead ∧ t = hostRead s) ∨ (m = .powerOn ∧ t = powerOnReset s) := by
  cases m with
  | loop =>
    obtain ⟨u, hu, ht⟩ := mapNext_eq_next h
    exact .inl ⟨rfl, u, hu, ht⟩
  | edge p d =>
    cases h
    exact .inr (.inl ⟨p, d, rfl, rfl⟩)
  | hostWrite tg b =>
    simp only [runMove, hostWrite] at h
    split at h
    · cases h
    · next hb =>
      cases h
      exact .inr (.inr (.inl ⟨tg, b, rfl, by simpa using hb, rfl⟩))
  | hostRead =>
    cases h
    exact .inr (.inr (.inr (.inl ⟨rfl, rfl⟩)))
  | powerOn =>
    cases h
    exact .inr (.inr (.inr (.inr ⟨rfl, rfl⟩)))

/-- The state the next move acts on: only the agenda has changed. -/
theorem nextMove_snd (s : State) : (nextMove s).2 = { s with agenda := s.agenda.tail } := by
  obtain ⟨_, _, _, _, _, _, _, _, _, _, _, _, _, _, agenda, _⟩ := s
  cases agenda <;> rfl

theorem nextMove_of_nil {s : State} (h : s.agenda = []) : nextMove s = (.loop, s) := by simp [nextMove, h]

theorem nextMove_of_cons {s : State} {m : Move} {rest : List Move} (h : s.agenda = m :: rest) :
    nextMove s = (m, { s with agenda := rest }) := by simp [nextMove, h]

/-! ### A legal state stays legal -/

theorem updPort_inv {s : State} (p : PortId) {f : Port → Port} (hs : s.Inv) (hf : ∀ P : Port, P.Inv → (f P).Inv)
    (hi : ∀ P : Port, (f P).inhibited = P.inhibited) : (s.updPort p f).Inv := by
  cases p
  · exact ⟨hf _ hs.1, hs.2.1, ⟨(hi _).trans hs.2.2.1.1, hs.2.2.1.2⟩, hs.2.2.2⟩
  · exact ⟨hs.1, hf _ hs.2.1, ⟨hs.2.2.1.1, (hi _).trans hs.2.2.1.2⟩, hs.2.2.2⟩

theorem edge_keeps_inv {s : State} (p : PortId) (d : Level) (hs : s.Inv) : (edge p d s).Inv :=
  updPort_inv p hs (fun _ h => Port.edge_inv d h) (fun P => (P.edge_frame d).1)

theorem txStart_keeps_inv {s : State} (p : PortId) (hs : s.Inv) : (txStart p s).Inv :=
  updPort_inv p hs (fun _ h => Port.txStart_inv h) (fun P => P.txStart_frame.1)

theorem timeoutStep_keeps_inv {s : State} (p : PortId) (hs : s.Inv) : (timeoutStep p s).Inv :=
  updPort_inv p hs (fun _ h => Port.timeoutStep_inv h) (fun P => P.timeoutStep_frame.1)

theorem forward_keeps_inv {s : State} (p : PortId) (hs : s.Inv) : (forward p s).Inv := by
  cases hq : (s.port p).receiveQueue with
  | nil => rwa [forward_of_empty hq]
  | cons b rest =>
    rw [forward_of_cons hq]
    apply enqueue_inv
    cases p
    · exact ⟨Port.shrinkReceive_inv hs.1 (by simp only [State.port] at hq; simp [hq]), hs.2⟩
    · exact ⟨hs.1, Port.shrinkReceive_inv hs.2.1 (by simp only [State.port] at hq; simp [hq]), hs.2.2⟩

theorem latches_append_cleared (s : State) : (s.emit .inputCleared).latches = s.latches := by
  simp [State.latches, State.emit]

theorem latches_append_latch (s : State) (e : OutEntry) : (s.emit (.hostLatch e.1 e.2)).latches = s.latches ++ [e] := by
  simp [State.latches, State.emit]

theorem clearInput_keeps_inv {s : State} (hs : s.Inv) : (clearInput s).Inv := by
  refine ⟨hs.1, hs.2.1, hs.2.2.1, hs.2.2.2.1, hs.2.2.2.2.1, hs.2.2.2.2.2.1, hs.2.2.2.2.2.2.1, ?_⟩
  intro e he
  have h : (clearInput s).latches = s.latches := latches_append_cleared _
  rw [h]
  exact hs.2.2.2.2.2.2.2 e he

theorem latchOutput_keeps_inv {s : State} (e : OutEntry) {rest : List OutEntry} (hs : s.Inv)
    (hq : rest.length < Config.outQueueSlots) : (latchOutput e { s with outq := rest }).Inv := by
  refine ⟨hs.1, hs.2.1, hs.2.2.1, hs.2.2.2.1, hs.2.2.2.2.1, hs.2.2.2.2.2.1, hq, ?_⟩
  intro e' he
  have h : (latchOutput e { s with outq := rest }).latches = s.latches ++ [e] := latches_append_latch _ e
  rw [h]
  simpa using he

theorem powerOn_port_inv (b : Bool) (P : Port) : (P.powerOn b).Inv :=
  ⟨.inl ⟨rfl, rfl⟩, ⟨Nat.succ_pos 15, Nat.succ_pos 15⟩, ⟨Nat.zero_le _, fun _ => rfl⟩, fun h => h, fun _ => rfl⟩

theorem powerOnReset_keeps_inv {s : State} (hs : s.Inv) : (powerOnReset s).Inv :=
  ⟨powerOn_port_inv _ _, powerOn_port_inv _ _, ⟨rfl, rfl⟩, rfl, hs.2.2.2.2.1, hs.2.2.2.2.2.1, Nat.succ_pos 31, fun _ h => nomatch h⟩

/-! ### The whole step -/

theorem updPort_keeps {s : State} (p : PortId) {f : Port → Port} (hf : ∀ P : Port, (f P).inhibited = P.inhibited) :
    (s.updPort p f).pri.inhibited = s.pri.inhibited ∧ (s.updPort p f).aux.inhibited = s.aux.inhibited ∧
      (s.updPort p f).cfg = s.cfg ∧ (s.updPort p f).pending = s.pending ∧ (s.updPort p f).nv = s.nv ∧
      (s.updPort p f).trace = s.trace ∧ (s.updPort p f).outLatch = s.outLatch ∧ (s.updPort p f).resetCodes = s.resetCodes := by
  cases p
  · exact ⟨hf _, rfl, rfl, rfl, rfl, rfl, rfl, rfl⟩
  · exact ⟨rfl, hf _, rfl, rfl, rfl, rfl, rfl, rfl⟩

theorem forward_keeps (p : PortId) (s : State) :
    (forward p s).pri.inhibited = s.pri.inhibited ∧ (forward p s).aux.inhibited = s.aux.inhibited ∧
      (forward p s).cfg = s.cfg ∧ (forward p s).pending = s.pending ∧ (forward p s).nv = s.nv ∧
      (forward p s).trace = s.trace ∧ (forward p s).outLatch = s.outLatch ∧ (forward p s).resetCodes = s.resetCodes := by
  unfold forward
  split
  · exact ⟨rfl, rfl, rfl, rfl, rfl, rfl, rfl, rfl⟩
  · cases p <;> exact ⟨rfl, rfl, rfl, rfl, rfl, rfl, rfl, rfl⟩

theorem hostRead_keeps (s : State) :
    (hostRead s).pri.inhibited = s.pri.inhibited ∧ (hostRead s).aux.inhibited = s.aux.inhibited ∧
      (hostRead s).cfg = s.cfg ∧ (hostRead s).pending = s.pending ∧ (hostRead s).nv = s.nv ∧
      (hostRead s).trace = s.trace ∧ (hostRead s).outLatch = s.outLatch ∧ (hostRead s).resetCodes = s.resetCodes := by
  unfold hostRead
  split <;> exact ⟨rfl, rfl, rfl, rfl, rfl, rfl, rfl, rfl⟩

theorem hostRead_keeps_inv {s : State} (hs : s.Inv) : (hostRead s).Inv := by
  unfold hostRead
  split <;> exact hs

/-- What a step can do to the registers that only the host's bytes, the pump and power write: nothing, one transfer to the
output latch, power-on, or the effect of the latched host word (R70, R280). -/
theorem step_cases {s t : State} (h : step s = .next t) :
    (t.pri.inhibited = s.pri.inhibited ∧ t.aux.inhibited = s.aux.inhibited ∧ t.cfg = s.cfg ∧ t.pending = s.pending ∧
      t.nv = s.nv ∧ t.trace = s.trace ∧ t.outLatch = s.outLatch ∧ t.resetCodes = s.resetCodes) ∨
    (∃ e rest, s.outq = e :: rest ∧ s.phase = .pumpOutput ∧
      t = (latchOutput e { s with agenda := s.agenda.tail, outq := rest }).setPhase .serviceInput) ∨
    (s.agenda.head? = some .powerOn ∧ t = powerOnReset { s with agenda := s.agenda.tail }) ∨
    (s.phase = .serviceInput ∧ s.ibf = true ∧ (s.agenda = [] ∨ s.agenda.head? = some .loop) ∧
      ∃ u, exec (decode s.resetCodes s.pending { tag := s.inTag, byte := s.inByte })
          (clearInput { s with agenda := s.agenda.tail }) = .next u ∧ t = u.setPhase .txStartPri) := by
  rw [step, nextMove_snd] at h
  rcases runMove_cases h with ⟨hm, u, hu, rfl⟩ | ⟨p, d, -, rfl⟩ | ⟨_, b, -, -, rfl⟩ | ⟨-, rfl⟩ | ⟨hm, rfl⟩
  · have hag : s.agenda = [] ∨ s.agenda.head? = some .loop := by
      cases ha : s.agenda with
      | nil => exact .inl rfl
      | cons m rest =>
        rw [nextMove_of_cons ha] at hm
        exact .inr (congrArg some hm)
    rcases subStepWork_cases hu with ⟨p, rfl⟩ | ⟨p, rfl⟩ | ⟨p, rfl⟩ | ⟨hk, e, rest, hq, rfl⟩ | rfl | ⟨hk, hi, h⟩
    · exact .inl (updPort_keeps p fun P => P.txStart_frame.1)
    · exact .inl (updPort_keeps p fun P => P.timeoutStep_frame.1)
    · exact .inl (forward_keeps p _)
    · simp only at hk
      exact .inr (.inl ⟨e, rest, hq, hk, by simp [hk, SubStep.succ]⟩)
    · exact .inl ⟨rfl, rfl, rfl, rfl, rfl, rfl, rfl, rfl⟩
    · simp only at hk
      exact .inr (.inr (.inr ⟨hk, hi, hag, u, h, by simp [hk, SubStep.succ]⟩))
  · exact .inl (updPort_keeps p fun P => (P.edge_frame d).1)
  · exact .inl ⟨rfl, rfl, rfl, rfl, rfl, rfl, rfl, rfl⟩
  · exact .inl (hostRead_keeps _)
  · refine .inr (.inr (.inl ⟨?_, rfl⟩))
    cases ha : s.agenda with
    | nil => rw [nextMove_of_nil ha] at hm; cases hm
    | cons m rest =>
      rw [nextMove_of_cons ha] at hm
      exact congrArg some hm

end Sys2Proof.Machine
end

