-- ==== Sys2Proof/Tests/Slice0.lean ====
section
/-! SUPPORT. The model's own tests. Expected results come from spec/95_test_vectors.md (V-…, E…, P…) and from the encodings of
spec/30_encoding.md; none comes from the model. The witnesses at the end meet the hypotheses of the obligations. -/

namespace Sys2Proof.Tests

open Machine

/-! ### Small states -/

/-- The state the V-CMD vectors start from: `cfg` 0x47, `nv[5]` 0x9C, both ports idle and not inhibited. -/
def demo : State := { State.reset with pri := Port.reset false, aux := Port.reset false, cfg := 0x47, nv := [(5, 0x9C)] }

/-- A port in a link state at a position. -/
def portAt (l : LinkState) (n : Nat) : Port := { Port.reset false with link := l, bitCount := n }

/-- A list of `n` bytes. -/
def bytes (n : Nat) : List Byte := List.replicate n 0x10

/-- A field of the state an instruction leaves, where it completes. -/
def after {α : Type} (f : State → α) (i : Instr) (s : State) : Option α :=
  match exec i s with
  | .next t => some (f t)
  | .fault _ => none
  | .refused _ => none

/-- A field of the state a step leaves, where it answers one. -/
def afterStep {α : Type} (f : State → α) (s : State) : Option α :=
  match step s with
  | .next t => some (f t)
  | .fault _ => none
  | .refused _ => none

/-! ### Well-formedness: an ill-formed term for each check -/

theorem test_wf_refuses_rdnv_0 : Instr.wf defaultResetCodes (.rdnv 0) = false := by decide
theorem test_wf_refuses_rdnv_31 : Instr.wf defaultResetCodes (.rdnv 31) = false := by decide
theorem test_wf_refuses_wrnv_31 : Instr.wf defaultResetCodes (.wrnv 31) = false := by decide
theorem test_wf_refuses_reset_code : Instr.wf defaultResetCodes (.reset 0xFF) = false := by decide
theorem test_wf_refuses_reset_command : Instr.wf [0x20] (.reset 0x20) = false := by decide
theorem test_wf_refuses_unk_reset : Instr.wf defaultResetCodes (.unk 0xFE) = false := by decide
theorem test_wf_refuses_unk_defined : Instr.wf defaultResetCodes (.unk 0x20) = false := by decide
theorem test_wf_refuses_unk_single : Instr.wf defaultResetCodes (.unk 0xAA) = false := by decide
theorem test_wf_refuses_operand_0 : Instr.wf defaultResetCodes (.operandWrnv 0 .data 0x9C) = false := by decide
theorem test_wf_refuses_pending_31 : Pending.wf (.awaitingStoreWrite 31) = false := by decide

/-! ### Decoding: words from spec/30_encoding.md R104, tag in bit 8, byte in bits 7..0 -/

theorem test_decode_rdcfg : decodeTableWord 16 0b100100000 = some .rdcfg := by decide
theorem test_decode_rdnv_1 : decodeTableWord 16 0b100100001 = some (.rdnv 1) := by decide
theorem test_decode_rdnv_30 : decodeTableWord 16 0b100111110 = some (.rdnv 30) := by decide
theorem test_decode_wrcfg : decodeTableWord 16 0b101100000 = some .wrcfg := by decide
theorem test_decode_wrnv_1 : decodeTableWord 16 0b101100001 = some (.wrnv 1) := by decide
theorem test_decode_wrnv_30 : decodeTableWord 16 0b101111110 = some (.wrnv 30) := by decide
theorem test_decode_auxdis : decodeTableWord 16 0b110100111 = some .auxdis := by decide
theorem test_decode_auxen : decodeTableWord 16 0b110101000 = some .auxen := by decide
theorem test_decode_auxtest : decodeTableWord 16 0b110101001 = some .auxtest := by decide
theorem test_decode_selftest : decodeTableWord 16 0b110101010 = some .selftest := by decide
theorem test_decode_kbdtest : decodeTableWord 16 0b110101011 = some .kbdtest := by decide
theorem test_decode_kbddis : decodeTableWord 16 0b110101101 = some .kbddis := by decide
theorem test_decode_kbden : decodeTableWord 16 0b110101110 = some .kbden := by decide
theorem test_decode_rdinp : decodeTableWord 16 0b111000000 = some .rdinp := by decide
theorem test_decode_rdout : decodeTableWord 16 0b111010000 = some .rdout := by decide
theorem test_decode_wrout : decodeTableWord 16 0b111010001 = some .wrout := by decide
theorem test_decode_wrkbdob : decodeTableWord 16 0b111010010 = some .wrkbdob := by decide
theorem test_decode_wrauxob : decodeTableWord 16 0b111010011 = some .wrauxob := by decide
theorem test_decode_wrauxdev : decodeTableWord 16 0b111010100 = some .wrauxdev := by decide
theorem test_decode_reset : decodeTableWord 16 0b111111110 = some (.reset 0xFE) := by decide
theorem test_decode_unk : decodeTableWord 16 0b100000000 = some (.unk 0) ∧ decodeTableWord 16 0b100111111 = some (.unk 0x3F) ∧
    decodeTableWord 16 0b110101100 = some (.unk 0xAC) ∧ decodeTableWord 16 0b111111111 = some (.unk 0xFF) := by decide
theorem test_decode_data : decodeTableWord 16 0b011101101 = some (.data 0xED) := by decide

/-- V-DP: under a pending state the word is the operand, whatever its tag. -/
theorem test_decode_operands :
    decodeBytes defaultResetCodes .awaitingConfigByte [0x47, 0] = .ok (.operandWrcfg .data 0x47) ∧
    decodeBytes defaultResetCodes .awaitingConfigByte [0xAA, 1] = .ok (.operandWrcfg .cmd 0xAA) ∧
    decodeBytes defaultResetCodes .awaitingOutputPort [0xDF, 0] = .ok (.operandWrout .data 0xDF) ∧
    decodeBytes defaultResetCodes .awaitingPrimaryOutputByte [0x1C, 0] = .ok (.operandWrkbdob .data 0x1C) ∧
    decodeBytes defaultResetCodes .awaitingAuxOutputByte [0x08, 0] = .ok (.operandWrauxob .data 0x08) ∧
    decodeBytes defaultResetCodes .awaitingAuxDeviceByte [0xF4, 0] = .ok (.operandWrauxdev .data 0xF4) ∧
    decodeBytes defaultResetCodes (.awaitingStoreWrite 30) [0xFE, 1] = .ok (.operandWrnv 30 .cmd 0xFE) :=
  ⟨rfl, rfl, rfl, rfl, rfl, rfl, rfl⟩

/-- R11: another legal `RESET_CODES`. -/
theorem test_decode_other_reset_codes : decode [0xF0, 0xFC] .none { tag := .cmd, byte := 0xFC } = .reset 0xFC ∧
    decode [0xF0, 0xFC] .none { tag := .cmd, byte := 0xFE } = .unk 0xFE := by decide

theorem test_decode_rejects_bits_above_tag : decodeTableWord 16 0x320 = none := by decide
theorem test_decode_rejects_one_byte : decodeBytes defaultResetCodes .none [0x20] = .error .notTwoBytes := rfl
theorem test_decode_rejects_high_bit : decodeBytes defaultResetCodes .none [0x20, 0x80] = .error .bitsAboveTag := rfl

/-! ### The commands, one step each (V-CMD) -/

theorem test_rdcfg : after State.outq .rdcfg demo = some [(0x47, false)] := by decide
theorem test_rdnv : after State.outq (.rdnv 5) demo = some [(0x9C, false)] := by decide
theorem test_wrcfg : after State.pending .wrcfg demo = some .awaitingConfigByte := by decide
theorem test_wrnv : after State.pending (.wrnv 30) demo = some (.awaitingStoreWrite 30) := by decide
theorem test_auxdis : after (fun t => (t.cfg, t.aux.inhibited, t.aux.clkDriveLow, t.pri.inhibited)) .auxdis demo =
    some (0x67, true, true, false) := by decide
theorem test_auxen : after (fun t => (t.cfg, t.aux.inhibited, t.aux.clkDriveLow)) .auxen
    { demo with cfg := 0x67, aux := Port.reset true } = some (0x47, false, false) := by decide
theorem test_auxtest : after State.outq .auxtest demo = some [(Config.ifTestPass, false)] := rfl
theorem test_selftest : after State.outq .selftest demo = some [(0x55, false)] := by decide
theorem test_selftest_full : after (fun t => t.outq.length) .selftest
    { demo with outq := List.replicate 31 (0x10, false) } = some 31 := by decide
theorem test_kbdtest : after State.outq .kbdtest demo = some [(Config.ifTestPass, false)] := rfl
theorem test_kbddis : after (fun t => (t.cfg, t.pri.inhibited, t.pri.clkDriveLow, t.aux.inhibited)) .kbddis demo =
    some (0x57, true, true, false) := by decide
theorem test_kbden : after (fun t => (t.cfg, t.pri.inhibited, t.pri.clkDriveLow)) .kbden
    { demo with cfg := 0x57, pri := Port.reset true } = some (0x47, false, false) := by decide
theorem test_rdinp : after State.outq .rdinp demo = some [(Config.inputPortValue, false)] := rfl
theorem test_rdout : after State.outq .rdout demo = some [(Config.outputPortValue, false)] := rfl
theorem test_wrout : after State.pending .wrout demo = some .awaitingOutputPort := by decide
theorem test_wrkbdob : after State.pending .wrkbdob demo = some .awaitingPrimaryOutputByte := by decide
theorem test_wrauxob : after State.pending .wrauxob demo = some .awaitingAuxOutputByte := by decide
theorem test_wrauxdev : after (fun t => (t.pending, t.cfg)) .wrauxdev { demo with cfg := 0x67 } =
    some (.awaitingAuxDeviceByte, 0x67) := by decide

/-- V-RST2: a frame in progress is abandoned and the store kept. -/
theorem test_reset : after (fun t => (t.pri.link, t.pri.bitCount, t.nv)) (.reset 0xFE)
    { demo with pri := portAt .receiving 4 } = some (.idle, 0, [(5, 0x9C)]) := by decide
theorem test_reset_cfg : after State.cfg (.reset 0xFE) demo = some Config.configReset := rfl
theorem test_unk : after (fun t => (t.cfg, t.pending, t.outq)) (.unk 0xAC) demo = some (0x47, .none, []) := by decide

/-! ### The data port and the data phases (V-DP) -/

theorem test_data : after (fun t => t.pri.transmitQueue) (.data 0xED) demo = some [0xED] := by decide
theorem test_data_full : after (fun t => t.pri.transmitQueue) (.data 0xED)
    { demo with pri := { Port.reset false with transmitQueue := bytes 15 } } = some (bytes 15) := by decide
theorem test_operandWrcfg : after (fun t => (t.cfg, t.pri.inhibited, t.aux.inhibited, t.aux.clkDriveLow, t.pending))
    (.operandWrcfg .data 0x30) { demo with pending := .awaitingConfigByte } = some (0x30, true, true, true, .none) := by decide
theorem test_operandWrcfg_cmd : after (fun t => (t.cfg, t.pri.inhibited, t.aux.inhibited, t.outq))
    (.operandWrcfg .cmd 0xAA) { demo with pending := .awaitingConfigByte } = some (0xAA, false, true, []) := by decide
theorem test_operandWrout : after (fun t => (t.pending, t.outq)) (.operandWrout .data 0xDF)
    { demo with pending := .awaitingOutputPort } = some (.none, []) := by decide
theorem test_operandWrkbdob : after State.outq (.operandWrkbdob .data 0x1C) demo = some [(0x1C, false)] := by decide
theorem test_operandWrauxob : after State.outq (.operandWrauxob .data 0x08) demo = some [(0x08, true)] := by decide
theorem test_operandWrauxdev : after (fun t => (t.aux.transmitQueue, t.pri.transmitQueue)) (.operandWrauxdev .data 0xF4) demo =
    some ([0xF4], []) := by decide
theorem test_operandWrnv : after (fun t => Memory.read t.nv 30) (.operandWrnv 30 .cmd 0xFE) demo = some 0xFE := by
  simp [after, exec, execOperandWrnv, memWrite, isNvAddr, Config.nvLo, Config.nvHi, setPending]
theorem test_operandWrnv_other : after (fun t => Memory.read t.nv 5) (.operandWrnv 30 .cmd 0xFE) demo = some 0x9C := by
  simp [after, exec, execOperandWrnv, memWrite, isNvAddr, Config.nvLo, Config.nvHi, setPending, Memory.read_write_other, demo,
    Memory.read]

/-! ### The transceiver -/

/-- Rows of V-RX1. -/
theorem test_frame : frame 0x1C = [false, false, false, true, true, true, false, false, false, false, true] ∧
    frame 0xF4 = [false, false, false, true, false, true, true, true, true, false, true] ∧
    frame 0xED = [false, true, false, true, true, false, true, true, true, true, true] := by decide

/-- V-RX2, edge 1. -/
theorem test_edge_start : (Port.edge false (Port.reset false)).link = .receiving := by decide
/-- V-RX4. -/
theorem test_edge_start_high : Port.edge true (Port.reset false) = Port.reset false := by decide
/-- V-RX2, edges 4 and 7. -/
theorem test_edge_data_bit :
    (fun P : Port => (P.bitCount, P.shiftRegister, P.runningParity)) (Port.edge true (portAt .receiving 2)) = (3, 0x80, true) ∧
    (fun P : Port => (P.bitCount, P.shiftRegister, P.runningParity)) (Port.edge false
      { portAt .receiving 5 with shiftRegister := 0xE0, runningParity := true }) = (6, 0x70, true) := by decide
/-- V-RX2, edge 10. -/
theorem test_edge_parity_bit : (fun P : Port => (P.bitCount, P.shiftRegister, P.runningParity)) (Port.edge false
    { portAt .receiving 8 with shiftRegister := 0x1C, runningParity := true }) = (9, 0x1C, true) := by decide
/-- V-RX2, edge 11. -/
theorem test_edge_stop_bit : (fun P : Port => (P.link, P.bitCount, P.receiveQueue)) (Port.edge true
    { portAt .receiving 9 with shiftRegister := 0x1C, runningParity := true }) = (.idle, 0, [0x1C]) := by decide
/-- V-RX3: wrong parity, and stop low. -/
theorem test_edge_stop_rejects :
    (Port.edge true { portAt .receiving 9 with shiftRegister := 0x1C }).receiveQueue = [] ∧
    (Port.edge false { portAt .receiving 9 with shiftRegister := 0x1C, runningParity := true }).receiveQueue = [] := by decide
/-- V-RX6. -/
theorem test_edge_stop_full : (Port.edge true
    { portAt .receiving 9 with shiftRegister := 0x1C, runningParity := true, receiveQueue := bytes 15 }).receiveQueue =
      bytes 15 := by decide
/-- V-TX1, edges 1 and 3. -/
theorem test_edge_send_bit :
    (fun P : Port => (P.bitCount, P.txByte, P.runningParity, P.dataDriveLow)) (Port.edge true
      { portAt .transmitting 0 with txByte := 0xF4, dataDriveLow := true }) = (1, 0x7A, false, true) ∧
    (fun P : Port => (P.bitCount, P.txByte, P.runningParity, P.dataDriveLow)) (Port.edge true
      { portAt .transmitting 2 with txByte := 0x3D, dataDriveLow := true }) = (3, 0x1E, true, false) := by decide
/-- V-TX1 and V-TX2, edge 9. -/
theorem test_edge_send_parity :
    (Port.edge true { portAt .transmitting 8 with runningParity := true }).dataDriveLow = true ∧
    (Port.edge true { portAt .transmitting 8 with dataDriveLow := true }).dataDriveLow = false := by decide
/-- V-TX1, edges 10 and 11; V-TX3. -/
theorem test_edge_send_end :
    (fun P : Port => (P.link, P.bitCount, P.dataDriveLow)) (Port.edge true
      { portAt .transmitting 9 with dataDriveLow := true }) = (.transmitAck, 10, false) ∧
    (Port.edge false (portAt .transmitAck 10)).link = .idle ∧ (Port.edge true (portAt .transmitAck 10)).link = .idle := by
  decide
/-- V-TX1, V-TX4: `TxStart`. -/
theorem test_txStart :
    (fun P : Port => (P.link, P.txByte, P.transmitQueue, P.clkDriveLow, P.dataDriveLow))
      (Port.txStart { Port.reset false with transmitQueue := [0xED, 0xF4] }) = (.transmitting, 0xED, [0xF4], false, true) ∧
    (Port.txStart { portAt .receiving 3 with transmitQueue := [0xF4] }).transmitQueue = [0xF4] := ⟨rfl, rfl⟩
/-- V-TX6: after a timeout on an inhibited port, the inhibit drives the clock again. -/
theorem test_setInhibit : (Port.setInhibit true { Port.reset true with clkDriveLow := false }).clkDriveLow = true := rfl

/-! ### The bridge, the queues, one step -/

/-- V-Q1. -/
theorem test_queue_empty : Queue.isEmpty ([] : List Byte) = true ∧ Queue.isFull 16 ([] : List Byte) = false := by decide
/-- V-Q2. -/
theorem test_queue_full : Queue.isFull 16 (bytes 15) = true ∧ Queue.push 16 (bytes 15) 0x1F = bytes 15 ∧
    Queue.isFull 16 (bytes 14) = false := by decide
/-- V-Q2: after fifteen pushes and a pop, a push wraps the head to 0. -/
theorem test_ring_wraps : (RingBuffer.push { buf := bytes 16, head := 15, tail := 1 } (0x1F : Byte)).head = 0 := by decide
/-- V-BR1. -/
theorem test_pump : afterStep (fun t => (t.outq, t.outLatch, t.trace))
    { demo with phase := .pumpOutput, outq := [(0x1C, false), (0xFA, true)] } =
      some ([(0xFA, true)], some (0x1C, false), [.hostLatch 0x1C false]) := by decide
/-- V-FWD. -/
theorem test_forward : afterStep (fun t => (t.outq, t.aux.receiveQueue))
    { demo with phase := .forwardAux, outq := [(0x1C, false)], aux := { Port.reset false with receiveQueue := [0x08] } } =
      some ([(0x1C, false), (0x08, true)], []) := by decide
/-- V-BR2. -/
theorem test_hostWrite : afterStep (fun t => (t.ibf, t.inByte, t.inTag)) { demo with agenda := [.hostWrite .cmd 0xAA] } =
    some (true, 0xAA, .cmd) := by decide
/-- V-BR2, E6: the latched 0x1AA is read and run in one step. -/
theorem test_serviceInput : afterStep (fun t => (t.ibf, t.outq, t.trace))
    { demo with phase := .serviceInput, ibf := true, inByte := 0xAA, inTag := .cmd } =
      some (false, [(0x55, false)], [.inputCleared]) := by decide
/-- P4: with a store write pending, 0x1AA is its operand. -/
theorem test_serviceInput_operand : afterStep (fun t => (t.pending, t.outq))
    { demo with phase := .serviceInput, ibf := true, inByte := 0xAA, inTag := .cmd, pending := .awaitingStoreWrite 5 } =
      some (.none, []) := rfl
/-- The first word after reset runs. -/
theorem test_fetch_from_reset : afterStep State.pending (State.reset.withFetchWord 16 0x165) =
    some (.awaitingStoreWrite 5) := by decide
/-- R11, R228: on a machine whose `RESET_CODES` is {0xF0}, 0x1F0 resets and 0x1FE does nothing. -/
theorem test_fetch_other_reset_codes :
    afterStep State.cfg ({ demo with resetCodes := [0xF0] }.withFetchWord 16 0x1F0) = some Config.configReset ∧
    afterStep State.cfg ({ demo with resetCodes := [0xF0] }.withFetchWord 16 0x1FE) = some 0x47 := ⟨rfl, rfl⟩
/-- R198: the host does not write into a full latch. -/
theorem test_hostWrite_full : step { demo with ibf := true, agenda := [.hostWrite .cmd 0xAA] } = .refused .hostWriteWhileFull := rfl

/-! ### Witnesses: states and operands that meet the hypotheses of each obligation that has some, at the edges of each range -/

/-- `demo` with the store as delivered: a legal state. -/
def legal : State := { demo with nv := [] }

/-- `demo` with thirty entries outbound: one place is left. -/
def demo30 : State := { demo with outq := List.replicate 30 (0x10, false) }

/-- `demo` with another primary port. -/
def demoPri (P : Port) : State := { demo with pri := P }

/-- `demo` with a host word latched and about to be serviced. -/
def demoWord (m : Pending) (t : Tag) (b : Byte) : State :=
  { demo with phase := .serviceInput, ibf := true, inByte := b, inTag := t, pending := m }

theorem legal_inv : legal.Inv := by
  have idle : (Port.reset false).Inv :=
    ⟨.inl ⟨rfl, rfl⟩, ⟨Nat.succ_pos 15, Nat.succ_pos 15⟩, ⟨Nat.zero_le _, fun _ => rfl⟩, fun h => h, fun _ => rfl⟩
  exact ⟨idle, idle, ⟨rfl, rfl⟩, rfl, Memory.nil_wf, fun _ h => absurd h List.not_mem_nil, Nat.succ_pos 31,
    fun _ h => absurd h (Option.some_ne_none _).symm⟩

theorem witness_DecodeOfEncode : Instr.wf defaultResetCodes (.rdnv 1) = true ∧ Instr.wf defaultResetCodes (.rdnv 30) = true ∧ Instr.wf defaultResetCodes (.wrnv 1) = true ∧
    Instr.wf defaultResetCodes (.wrnv 30) = true ∧ Instr.wf defaultResetCodes (.reset 0xFE) = true ∧ Instr.wf defaultResetCodes (.unk 0x3F) = true ∧ Instr.wf defaultResetCodes (.data 0xFF) = true ∧
    Instr.wf defaultResetCodes (.operandWrnv 30 .cmd 0xFE) = true := by decide

/-- EncodeOfDecode and AddressThirtyOneIsUnbacked. -/
theorem witness_legal_pending : Pending.wf .none = true ∧ Pending.wf (.awaitingStoreWrite 1) = true ∧
    Pending.wf (.awaitingStoreWrite 30) = true := by decide

theorem witness_StepRunsDecodedInstruction :
    let s := demoWord (.awaitingStoreWrite 30) .cmd 0xFE
    s.phase = .serviceInput ∧ s.ibf = true ∧ s.agenda = [] ∧ ({ s with agenda := [.loop] }.agenda.head? = some .loop) ∧
      decodeBytes s.resetCodes s.pending (HostWord.toBytes { tag := s.inTag, byte := s.inByte }) = .ok (.operandWrnv 30 .cmd 0xFE) ∧
      Instr.wf defaultResetCodes (.operandWrnv 30 .cmd 0xFE) = true := ⟨rfl, rfl, rfl, rfl, rfl, rfl⟩

theorem witness_FetchWordRunsNext : 511 < 512 ∧
    decodeBytes demo.resetCodes demo.pending (tableBytes 511) = .ok (.unk 0xFF) ∧
    decodeBytes demo.resetCodes (.awaitingStoreWrite 30) (tableBytes 0) = .ok (.operandWrnv 30 .data 0) := ⟨by decide, rfl, rfl⟩

/-- The store addresses 1 and 30 of StorageReadWindow, RespondingCommands, WriteWindowSetsPending, DataPhaseResults. -/
theorem witness_store_addresses : (1 ≤ (1 : StorageAddr).toNat ∧ (1 : StorageAddr).toNat ≤ 30) ∧
    (1 ≤ (30 : StorageAddr).toNat ∧ (30 : StorageAddr).toNat ≤ 30) := by decide

/-- Both ends of every range of UnknownCodesDoNothing, two legal sets of reset codes, and a set without 0x7F
(WriteWindowSetsPending). -/
theorem witness_UnknownCodesDoNothing : (0x1F : Byte) < 0x20 ∧ ((0x40 : Byte) ≤ 0x40 ∧ (0x5F : Byte) ≤ 0x5F) ∧
    ((0x80 : Byte) ≤ 0xA6 ∧ (0xA6 : Byte) ≤ 0xA6) ∧ ((0xAF : Byte) ≤ 0xBF ∧ (0xBF : Byte) ≤ 0xBF) ∧
    ((0xC1 : Byte) ≤ 0xCF ∧ (0xCF : Byte) ≤ 0xCF) ∧ (0xD5 : Byte) ≤ 0xD5 ∧ (0xD5 : Byte) ≤ 0xFF ∧
    ((0xF0 : Byte) ≤ 0xF0 ∧ (0xF0 : Byte) ≤ 0xFD) ∧ ((0xF0 : Byte) ≤ 0xFD ∧ (0xFD : Byte) ≤ 0xFD) ∧
    resetCodesOk defaultResetCodes ∧ (resetCodesOk [0xF0, 0xFC] ∧ (0xFC : Byte) ∈ [0xF0, (0xFC : Byte)]) ∧
    (0x7F : Byte) ∉ defaultResetCodes := by decide

theorem witness_ChannelCommands : 0 < 8 ∧ 4 < 8 ∧ 5 < 8 ∧ 7 < 8 := by decide

theorem witness_HostByteDispatch : demo.pending = .none ∧
    (let s := demoWord (.awaitingStoreWrite 30) .cmd 0xFE; s.pending ≠ .none ∧ s.pending.wf = true) := by decide

theorem witness_ConfigRoundTrip : demo30.pending = .none ∧ demo30.outq.length < 31 := by decide

theorem witness_StoreRoundTrip : 0 < 30 ∧ 29 < 30 ∧ demo30.pending = .none ∧ demo30.outq.length < 31 ∧ 5 ≠ 29 + 1 := by decide

theorem witness_DisabledKeyboardIgnoresEdges : demo.pending = .none := rfl

theorem witness_InhibitedPortIgnoresEdge :
    let s := { demo with aux := Port.reset true, agenda := [.edge .aux false, .loop] }
    (s.port .aux).inhibited = true ∧ s.agenda = .edge .aux false :: [.loop] := ⟨rfl, rfl⟩

theorem witness_EdgeMoveRunsHandler : { demo with agenda := [.edge .pri false] }.agenda = .edge .pri false :: [] := rfl

theorem witness_ParityBitEdges :
    ((demoPri (portAt .receiving 8)).port .pri).inhibited = false ∧ ((demoPri (portAt .receiving 8)).port .pri).bitCount = 8 ∧
    ((demoPri (portAt .receiving 8)).port .pri).link = .receiving ∧
    ((demoPri (portAt .transmitting 8)).port .pri).link = .transmitting := by decide

theorem witness_ReceiveEdges :
    (demo.port .pri).inhibited = false ∧ (demo.port .pri).link = .idle ∧
    ((demoPri (portAt .receiving 0)).port .pri).bitCount < 8 ∧ ((demoPri (portAt .receiving 7)).port .pri).bitCount < 8 ∧
    ((demoPri (portAt .receiving 9)).port .pri).link = .receiving ∧
    ((demoPri (portAt .receiving 9)).port .pri).bitCount = 9 := by decide

theorem witness_TransmitEdges :
    ((demoPri (portAt .transmitting 0)).port .pri).bitCount < 8 ∧ ((demoPri (portAt .transmitting 7)).port .pri).bitCount < 8 ∧
    ((demoPri (portAt .transmitting 9)).port .pri).bitCount = 9 ∧
    ((demoPri (portAt .transmitting 9)).port .pri).link = .transmitting ∧
    ((demoPri (portAt .transmitAck 10)).port .pri).link = .transmitAck ∧
    ((demoPri (portAt .transmitAck 10)).port .pri).inhibited = false := by decide

theorem witness_TransmitIgnoresSample : ((demoPri (portAt .transmitting 9)).port .pri).link = .transmitting ∧
    ((demoPri (portAt .transmitAck 10)).port .pri).link = .transmitAck := ⟨rfl, rfl⟩

theorem witness_EdgeWritesOwnPortOnly : (demo.port .aux).link = .idle ∧
    ((demoPri (portAt .receiving 3)).port .pri).link = .receiving := ⟨rfl, rfl⟩

/-- A port with room for one byte, and a full one (FrameAcceptance). -/
theorem witness_FrameAcceptance :
    (let P : Port := { Port.reset false with receiveQueue := bytes 14 };
      P.link = .idle ∧ P.inhibited = false ∧ P.receiveQueue.length < 15) ∧
    (let P : Port := { Port.reset false with receiveQueue := bytes 15 };
      P.link = .idle ∧ P.inhibited = false ∧ ¬ P.receiveQueue.length < 15) := by decide

theorem witness_FrameRoundTrip :
    let s := { demo with aux := { Port.reset false with receiveQueue := bytes 14 }, agenda := scriptRxFrame .aux 0xFF }
    (s.port .aux).link = .idle ∧ (s.port .aux).inhibited = false ∧ (s.port .aux).receiveQueue.length < 15 ∧
      s.agenda = (frame 0xFF).map (.edge .aux) ++ [] := by decide

theorem witness_TransmissionSendsFrame :
    let P : Port := { Port.reset false with transmitQueue := [0xF4, 0xED] }
    P.link = .idle ∧ P.inhibited = false ∧ P.transmitQueue = 0xF4 :: [0xED] ∧
      (List.replicate 10 true ++ [false]).length = 11 := by decide

theorem witness_TxStartResult :
    ((demoPri (portAt .receiving 3)).port .pri).link ≠ .idle ∧ (demo.port .pri).transmitQueue = [] ∧
    (let s := demoPri { Port.reset true with transmitQueue := [0xF4] };
      (s.port .pri).link = .idle ∧ (s.port .pri).transmitQueue = 0xF4 :: []) := by decide

/-- Idle, in a frame, and in a frame with the counter at the threshold (TimeoutStepResult). -/
theorem witness_TimeoutStepResult : (demo.port .pri).link = .idle ∧
    ((demoPri (portAt .receiving 3)).port .pri).link ≠ .idle ∧
    (let P : Port := { portAt .transmitAck 10 with timeoutCounter := Config.timeoutThreshold };
      P.link ≠ .idle ∧ P.timeoutCounter + 1 > Config.timeoutThreshold) :=
  ⟨rfl, by decide, by decide, Nat.lt_succ_self _⟩

theorem witness_StalledPortRecovers : (portAt .receiving 3).link ≠ .idle ∧ (portAt .receiving 3).timeoutCounter = 0 ∧
    0 ≤ Config.timeoutThreshold ∧ Config.timeoutThreshold ≤ Config.timeoutThreshold :=
  ⟨by decide, rfl, Nat.zero_le _, Nat.le_refl _⟩

theorem witness_DisabledChannelLosesByte :
    let P : Port := { Port.reset true with transmitQueue := [0xF4] }
    P.link = .idle ∧ P.inhibited = true ∧ P.timeoutCounter = 0 ∧ P.transmitQueue = 0xF4 :: [] := ⟨rfl, rfl, rfl, rfl⟩

theorem witness_RingRefinesList : (RingBuffer.mk (bytes 16) 15 0).wf ∧ (RingBuffer.mk (bytes 1) 0 0).wf := by decide

theorem witness_QueueFifoAndCapacity : 0 < 1 ∧ (bytes 16).length = 16 := by decide

theorem witness_QueueOperationResults : (bytes 15).length < 16 ∧ Queue.isFull 16 (bytes 15) = true ∧
    Queue.isFull 16 (bytes 14) = false := by decide

theorem witness_EnqueueResult : { demo with outq := List.replicate 31 (0x10, true) }.outq.length ≤ 31 := by decide

theorem witness_PumpOutputResult : demo.outq = [] ∧ { demo with outq := [(0x1C, false)] }.outq = (0x1C, false) :: [] :=
  ⟨rfl, rfl⟩

theorem witness_ReadInputResult : (demoWord .none .cmd 0xAA).ibf = true ∧ demo.ibf = false := ⟨rfl, rfl⟩

/-- ForwardResult and ForwardIgnoresConfig. -/
theorem witness_ForwardResult : (demo.port .pri).receiveQueue = [] ∧
    (let s := { demo30 with pri := { Port.reset false with receiveQueue := [0x1C, 0xF0] } };
      (s.port .pri).receiveQueue = 0x1C :: [0xF0] ∧ s.outq.length < 31) := by decide

theorem witness_HostMoves :
    (let s := { demo with agenda := [.hostWrite .cmd 0xAA] }; s.agenda = .hostWrite .cmd 0xAA :: [] ∧ s.ibf = false) ∧
    (let s := { demo with agenda := [.hostWrite .cmd 0xAA], ibf := true };
      s.agenda = .hostWrite .cmd 0xAA :: [] ∧ s.ibf = true) ∧
    (let s := { demo with agenda := [.hostRead], outLatch := some (0x1C, false) };
      s.agenda = .hostRead :: [] ∧ s.outLatch = some (0x1C, false)) := by decide

theorem witness_PassOrder : demo.phase = .txStartPri ∧ demo.agenda = [] := ⟨rfl, rfl⟩

/-- A step that latches, one that does not, and power-on (LatchComesFromQueueFront). -/
theorem witness_LatchComesFromQueueFront :
    (∃ t, step { demo with phase := .pumpOutput, outq := [(0x1C, false)] } = .next t) ∧ (∃ t, step demo = .next t) ∧
    ∃ t, step { demo with agenda := [.powerOn] } = .next t := ⟨⟨_, rfl⟩, ⟨_, rfl⟩, ⟨_, rfl⟩⟩

/-- A bare pass, and one with an edge, a host read and a host write between its sub-steps (OneLatchPerPass). -/
theorem witness_OneLatchPerPass :
    (demo.phase = .txStartPri ∧ demo.loopMoves 8 ≤ 8 ∧ ∃ t, steps 8 demo = .next t) ∧
    (let s := { demo with
        outq := [(0x1C, false), (0xFA, true)]
        agenda := [.loop, .edge .aux true, .loop, .hostRead, .hostWrite .cmd 0xAA] };
      s.phase = .txStartPri ∧ s.loopMoves 11 = 8 ∧ ∃ t, steps 11 s = .next t) :=
  ⟨⟨rfl, by decide, _, rfl⟩, rfl, by decide, _, rfl⟩

/-- The primary port's byte, and the auxiliary port's with a host byte latched (ReceivedByteLatchedSamePass). -/
theorem witness_ReceivedByteLatchedSamePass :
    (let s := demoPri { Port.reset false with receiveQueue := [0x1C] };
      s.phase = .txStartPri ∧ s.agenda = [] ∧ s.pending.wf = true ∧ s.outq = [] ∧ s.ibf = false ∧
        (s.port .pri).receiveQueue = 0x1C :: []) ∧
    (let s := { demo with
        aux := { Port.reset false with receiveQueue := [0x08, 0x09] }, ibf := true, pending := .awaitingStoreWrite 30 };
      s.phase = .txStartPri ∧ s.agenda = [] ∧ s.pending.wf = true ∧ s.outq = [] ∧
        (s.port .aux).receiveQueue = 0x08 :: [0x09] ∧ s.pri.receiveQueue = []) :=
  ⟨⟨rfl, rfl, rfl, rfl, rfl, rfl⟩, rfl, rfl, rfl, rfl, rfl, rfl⟩

theorem witness_QueuedEntriesReachTheLatch :
    let s := { demo with outq := [(0x1C, false), (0xFA, true)] }
    s.phase = .txStartPri ∧ s.agenda = [] ∧ s.ibf = false ∧ s.outq = [(0x1C, false)] ++ (0xFA, true) :: [] ∧
      s.outq = [] ++ (0x1C, false) :: [(0xFA, true)] := ⟨rfl, rfl, rfl, rfl, rfl⟩

theorem witness_PowerOnKeepsStore : { demo with agenda := [.powerOn] }.agenda = .powerOn :: [] := rfl

/-- StepKeepsLegalState, MirrorKeptByEveryStep, NoStepHalts, ConfigChangesOnlyByHost and
ResetCodesNeverChange. -/
theorem witness_StepKeepsLegalState : legal.Inv ∧ legal.mirror ∧ step legal = .next { legal with phase := .timeoutPri } :=
  ⟨legal_inv, ⟨rfl, rfl⟩, rfl⟩

theorem witness_StoreChangesOnlyByStoreWrite : ∃ t, step (demoWord (.awaitingStoreWrite 5) .data 0xAA) = .next t ∧
    Memory.read t.nv 5 ≠ Memory.read (demoWord (.awaitingStoreWrite 5) .data 0xAA).nv 5 := by
  refine ⟨_, rfl, ?_⟩
  show Memory.read (Memory.write [(5, 0x9C)] 5 0xAA) 5 ≠ 0x9C
  rw [Memory.read_write_same]
  decide

end Sys2Proof.Tests
end

section
/-! PROOFS. The command map (spec/30_encoding.md R104) and the decoder read from it: one equation per region of the code space,
then the two directions of the round trip between host words and instructions (R95 to R98). -/

namespace Sys2Proof

open Machine

/-! ### The command map -/

/-- The codes that `RDNV` claims are those whose address field is backed and whose base is the read window's (R96, R104). -/
theorem readWindow_range_iff : ∀ c : Byte, (0x21#8 ≤ c ∧ c ≤ 0x3E#8) ↔
    isNvAddr (codeAddr c) = true ∧ windowCode codeReadWindow (codeAddr c) = c := by decide

/-- The codes that `WRNV` claims are those whose address field is backed and whose base is the write window's (R96, R104). -/
theorem writeWindow_range_iff : ∀ c : Byte, (0x61#8 ≤ c ∧ c ≤ 0x7E#8) ↔
    isNvAddr (codeAddr c) = true ∧ windowCode codeWriteWindow (codeAddr c) = c := by decide

@[simp] theorem codeAddr_windowCode_read : ∀ a, codeAddr (windowCode codeReadWindow a) = a := by decide

@[simp] theorem codeAddr_windowCode_write : ∀ a, codeAddr (windowCode codeWriteWindow a) = a := by decide

/-- The five regions of the command map, in the order the decoder tests them (R104). -/
theorem isCommandCode_iff : ∀ c : Byte, isCommandCode c = true ↔
    c = codeReadWindow ∨ (0x21#8 ≤ c ∧ c ≤ 0x3E#8) ∨ c = codeWriteWindow ∨ (0x61#8 ≤ c ∧ c ≤ 0x7E#8) ∨ c ∈ singleCodes := by
  decide

/-! ### The decoder, region by region -/

variable (resets : List Byte)

theorem decodeCommand_of_readWindow {c : Byte} (h : 0x21#8 ≤ c ∧ c ≤ 0x3E#8) :
    decodeCommand resets c = .rdnv (codeAddr c) := by
  have h0 : c ≠ codeReadWindow := by rintro rfl; exact absurd h (by decide)
  rw [decodeCommand, if_neg h0, if_pos h]

theorem decodeCommand_of_writeWindow {c : Byte} (h : 0x61#8 ≤ c ∧ c ≤ 0x7E#8) :
    decodeCommand resets c = .wrnv (codeAddr c) := by
  have h0 : c ≠ codeReadWindow := by rintro rfl; exact absurd h (by decide)
  have hr : ¬ (0x21#8 ≤ c ∧ c ≤ 0x3E#8) := fun hc => absurd (BitVec.le_trans h.1 hc.2) (by decide)
  have h1 : c ≠ codeWriteWindow := by rintro rfl; exact absurd h (by decide)
  rw [decodeCommand, if_neg h0, if_neg hr, if_neg h1, if_pos h]

/-- A code outside the command map is a reset or unknown, as `RESET_CODES` says (R228, R229). -/
theorem decodeCommand_of_unmapped {c : Byte} (h : isCommandCode c = false) :
    decodeCommand resets c = if c ∈ resets then .reset c else .unk c := by
  have hmap := mt (isCommandCode_iff c).2 (by simp [h])
  simp only [singleCodes, List.mem_cons, List.not_mem_nil, or_false, not_or] at hmap
  simp [decodeCommand, hmap]

theorem decodeCommand_windowCode_read {a : StorageAddr} (h : isNvAddr a = true) :
    decodeCommand resets (windowCode codeReadWindow a) = .rdnv a := by
  rw [decodeCommand_of_readWindow resets ((readWindow_range_iff _).2 (by simp [h])), codeAddr_windowCode_read]

theorem decodeCommand_windowCode_write {a : StorageAddr} (h : isNvAddr a = true) :
    decodeCommand resets (windowCode codeWriteWindow a) = .wrnv a := by
  rw [decodeCommand_of_writeWindow resets ((writeWindow_range_iff _).2 (by simp [h])), codeAddr_windowCode_write]

/-! ### Both directions of the round trip -/

/-- `i` is what a word stands for under a pending state: well formed, read in that mode, encoded by that word. -/
def StandsFor (m : Pending) (w : HostWord) (i : Instr) : Prop :=
  i.wf resets = true ∧ i.mode = m ∧ encode i = w

/-- A code of a single command decodes to a command that needs no operand bits and has that code (R104). -/
theorem decodeCommand_single_standsFor {c : Byte} (h : c ∈ singleCodes) :
    StandsFor resets .none ⟨.cmd, c⟩ (decodeCommand resets c) := by
  simp only [singleCodes, List.mem_cons, List.not_mem_nil, or_false] at h
  rcases h with rfl | rfl | rfl | rfl | rfl | rfl | rfl | rfl | rfl | rfl | rfl | rfl | rfl <;> exact ⟨rfl, rfl, rfl⟩

theorem decodeCommand_unmapped_standsFor {c : Byte} (h : isCommandCode c = false) :
    StandsFor resets .none ⟨.cmd, c⟩ (decodeCommand resets c) := by
  rw [decodeCommand_of_unmapped resets h]
  split
  · next hc => exact ⟨by simp [Instr.wf, h, hc], rfl, rfl⟩
  · next hc => exact ⟨by simp [Instr.wf, h, hc], rfl, rfl⟩

/-- Every command code stands for what it decodes to (R101, R210). -/
theorem decodeCommand_standsFor (c : Byte) : StandsFor resets .none ⟨.cmd, c⟩ (decodeCommand resets c) := by
  cases hc : isCommandCode c with
  | false => exact decodeCommand_unmapped_standsFor resets hc
  | true =>
    rcases (isCommandCode_iff c).1 hc with rfl | hr | rfl | hw | hs
    · exact ⟨rfl, rfl, rfl⟩
    · obtain ⟨hnv, hcode⟩ := (readWindow_range_iff c).1 hr
      rw [decodeCommand_of_readWindow resets hr]
      exact ⟨hnv, rfl, congrArg (HostWord.mk .cmd) hcode⟩
    · exact ⟨rfl, rfl, rfl⟩
    · obtain ⟨hnv, hcode⟩ := (writeWindow_range_iff c).1 hw
      rw [decodeCommand_of_writeWindow resets hw]
      exact ⟨hnv, rfl, congrArg (HostWord.mk .cmd) hcode⟩
    · exact decodeCommand_single_standsFor resets hs

/-- Every host word under a legal pending state stands for what it decodes to (R98, R210). -/
theorem decode_standsFor {m : Pending} (hm : m.wf = true) (w : HostWord) :
    StandsFor resets m w (decode resets m w) := by
  obtain ⟨t, b⟩ := w
  cases m with
  | none =>
    cases t with
    | cmd => exact decodeCommand_standsFor resets b
    | data => exact ⟨rfl, rfl, rfl⟩
  | awaitingStoreWrite a => exact ⟨hm, rfl, rfl⟩
  | _ => exact ⟨rfl, rfl, rfl⟩

/-- The other direction: the word of an instruction stands for no second one (R98, R104). -/
theorem decode_encode {i : Instr} (hi : i.wf resets = true) : decode resets i.mode (encode i) = i := by
  cases i with
  | rdnv a => exact decodeCommand_windowCode_read resets hi
  | wrnv a => exact decodeCommand_windowCode_write resets hi
  | reset c =>
    obtain ⟨hc, hmap⟩ : c ∈ resets ∧ isCommandCode c = false := by simpa [Instr.wf] using hi
    exact (decodeCommand_of_unmapped resets hmap).trans (if_pos hc)
  | unk c =>
    obtain ⟨hmap, hc⟩ : isCommandCode c = false ∧ c ∉ resets := by simpa [Instr.wf] using hi
    exact (decodeCommand_of_unmapped resets hmap).trans (if_neg hc)
  | _ => rfl

/-- Two bytes carry a host word whole (R95). -/
theorem decodeBytes_toBytes (m : Pending) (w : HostWord) : decodeBytes resets m w.toBytes = .ok (decode resets m w) := by
  have htop : ∀ t : Tag, (t.toBit.setWidth 8).extractLsb' 1 7 = 0#7 := by rintro (_ | _) <;> decide
  have hbit : ∀ t : Tag, (t.toBit.setWidth 8).extractLsb' 0 1 = t.toBit := by rintro (_ | _) <;> decide
  have hword : HostWord.ofBits (w.tag.toBit ++ w.byte) = w := Laws.WordForm.ofBits_toBits w
  rw [HostWord.toBytes, decodeBytes, if_pos (htop w.tag), hbit w.tag, hword]

end Sys2Proof
end

section
/-! PROOFS. The family of spec/00_scope.md: the round trip, the unknown codes, that no step halts, that `RESET_CODES` is kept. -/

namespace Sys2Proof.Machine

/-- Settles O2: `decode_encode` goes through the regions of the command map, and two bytes carry the word whole. -/
theorem decodeOfEncode : Obligations.DecodeOfEncode := by
  intro resets i hi
  have hword := decode_encode resets hi
  exact ⟨hword, by rw [decodeBytes_toBytes, hword]⟩

/-- Settles O3: every word under a legal pending state stands for what it decodes to. -/
theorem encodeOfDecode : Obligations.EncodeOfDecode :=
  fun resets _ w hm => decode_standsFor resets hm w

/-- The gaps of the command map (R104's last two rows), 0x3F and 0x7F among them (D20). -/
theorem isCommandCode_of_gap : ∀ c : Byte, (c < 0x20 ∨ c = 0x3F ∨ (0x40 ≤ c ∧ c ≤ 0x5F) ∨ c = 0x7F ∨ (0x80 ≤ c ∧ c ≤ 0xA6) ∨
    c = 0xAC ∨ (0xAF ≤ c ∧ c ≤ 0xBF) ∨ (0xC1 ≤ c ∧ c ≤ 0xCF) ∨ 0xD5 ≤ c) → isCommandCode c = false := by decide

/-- Of the codes from 0xF0 up the default set holds 0xFE alone (D19). -/
theorem highCode_not_default : ∀ c : Byte, (0xF0 ≤ c ∧ c ≤ 0xFD) ∨ c = 0xFF →
    isCommandCode c = false ∧ c ∉ defaultResetCodes := by decide

/-- Settles O16: outside the command map only `RESET_CODES` decides, and the gaps of the map are outside it. -/
theorem unknownCodesDoNothing : Obligations.UnknownCodesDoNothing := by
  refine ⟨fun _ _ => rfl, fun resets hok c hc => ?_, fun resets c hgap => ?_, fun c hc => ?_⟩
  · exact (decodeCommand_of_unmapped resets (hok.2 c hc)).trans (if_pos hc)
  · exact decodeCommand_of_unmapped resets (isCommandCode_of_gap c hgap)
  · obtain ⟨hmap, hdefault⟩ := highCode_not_default c hc
    exact (decodeCommand_of_unmapped _ hmap).trans (if_neg hdefault)

/-- Servicing input completes: what is read under a legal pending state is well formed (R101, R304). -/
theorem serviceInput_completes {s : State} (h : s.pending.wf = true) : ∃ t, serviceInput s = .next t := by
  cases hb : s.ibf with
  | false => exact ⟨s, serviceInput_of_not_ready hb⟩
  | true =>
    obtain ⟨hwf, -, -⟩ := decode_standsFor s.resetCodes h ⟨s.inTag, s.inByte⟩
    obtain ⟨t, ht, -⟩ := exec_wf hwf (clearInput s)
    exact ⟨t, (serviceInput_of_ready hb).trans ht⟩

/-- Every sub-step completes: the scheduler pumps only a queue that holds something (R280, R304). -/
theorem subStepWork_completes (k : SubStep) {s : State} (h : s.pending.wf = true) : ∃ t, subStepWork k s = .next t := by
  cases k with
  | serviceInput => exact serviceInput_completes h
  | pumpOutput =>
    cases hq : s.outq with
    | nil =>
      have hp : ¬ hasPendingOutput s = true := by simp [hasPendingOutput, hq]
      exact ⟨s, if_neg hp⟩
    | cons e rest =>
      have hp : hasPendingOutput s = true := by simp [hasPendingOutput, hq]
      exact ⟨_, (if_pos hp).trans (pumpOutput_of_cons hq)⟩
  | _ => exact ⟨_, rfl⟩

/-- Every move completes but the host's write into a full latch (R198, D26). -/
theorem runMove_completes (m : Move) {s : State} (h : s.pending.wf = true) :
    (∃ t, runMove m s = .next t) ∨
      (runMove m s = .refused .hostWriteWhileFull ∧ s.ibf = true ∧ ∃ t b, m = .hostWrite t b) := by
  cases m with
  | loop =>
    obtain ⟨t, ht⟩ := subStepWork_completes s.phase h
    exact .inl ⟨t.setPhase s.phase.succ, by rw [runMove, loopStep, ht, mapNext_next]⟩
  | hostWrite t b =>
    cases hb : s.ibf with
    | false => exact .inl ⟨_, by rw [runMove, hostWrite, hb]; rfl⟩
    | true => exact .inr ⟨by rw [runMove, hostWrite, hb]; rfl, rfl, t, b, rfl⟩
  | _ => exact .inl ⟨_, rfl⟩

/-- Settles O55: the next move of a legal state completes or is the host's write into a full latch. -/
theorem noStepHalts : Obligations.NoStepHalts := by
  intro s hs
  obtain ⟨-, -, -, hpend, -⟩ := hs
  cases ha : s.agenda with
  | nil =>
    rw [step, nextMove_of_nil ha]
    refine (runMove_completes .loop hpend).imp_right ?_
    rintro ⟨-, -, t, b, h⟩
    cases h
  | cons m rest =>
    rw [step, nextMove_of_cons ha]
    refine (runMove_completes m (s := { s with agenda := rest }) hpend).imp_right ?_
    rintro ⟨hr, hb, t, b, rfl⟩
    exact ⟨hr, hb, t, b, rest, rfl⟩

/-- Settles O58: each of the four things a step can do keeps the set. -/
theorem resetCodesNeverChange : Obligations.ResetCodesNeverChange := by
  refine ⟨rfl, by decide, fun s t h => ?_⟩
  rcases step_cases h with ⟨-, -, -, -, -, -, -, hkept⟩ | ⟨e, rest, -, -, rfl⟩ | ⟨-, rfl⟩ | ⟨-, -, -, u, hu, rfl⟩
  · exact hkept
  · rfl
  · rfl
  · obtain ⟨-, -, -, -, -, -, -, -, -, hkept⟩ := exec_frame hu
    exact hkept

end Sys2Proof.Machine
end

section
/-! PROOFS. The family of spec/10_state.md: the power-on state, the invariant that every step keeps, and which steps may change
the configuration register, the inhibit flags, the store and the output latch. -/

namespace Sys2Proof.Machine

/-! ### A legal state stays legal (R26, R27, R38, R40, R42, R45, R126, R150, R175) -/

theorem exec_keeps_inv {resets : List Byte} {i : Instr} {s t : State} (hi : i.wf resets = true) (h : exec i s = .next t)
    (hs : s.Inv) : t.Inv := by
  obtain ⟨t', ht, hinv⟩ := exec_wf hi s
  cases h.symm.trans ht
  exact hinv hs

/-- The word read from the latch stands for a well-formed instruction because the pending state is legal. -/
theorem subStepWork_keeps_inv {k : SubStep} {s t : State} (h : subStepWork k s = .next t) (hs : s.Inv) : t.Inv := by
  rcases subStepWork_cases h with ⟨p, rfl⟩ | ⟨p, rfl⟩ | ⟨p, rfl⟩ | ⟨-, e, rest, hq, rfl⟩ | rfl | ⟨-, -, hexec⟩
  · exact txStart_keeps_inv p hs
  · exact timeoutStep_keeps_inv p hs
  · exact forward_keeps_inv p hs
  · have ⟨_, _, _, _, _, _, hroom, _⟩ := hs
    rw [hq] at hroom
    exact latchOutput_keeps_inv e hs (Nat.lt_of_succ_lt hroom)
  · exact hs
  · have ⟨_, _, _, hpend, _⟩ := hs
    obtain ⟨hwf, -, -⟩ := decode_standsFor s.resetCodes hpend ⟨s.inTag, s.inByte⟩
    exact exec_keeps_inv hwf hexec (clearInput_keeps_inv hs)

theorem runMove_keeps_inv {m : Move} {s t : State} (h : runMove m s = .next t) (hs : s.Inv) : t.Inv := by
  rcases runMove_cases h with ⟨-, u, hu, rfl⟩ | ⟨p, d, -, rfl⟩ | ⟨_, _, -, -, rfl⟩ | ⟨-, rfl⟩ | ⟨-, rfl⟩
  · have hinv : u.Inv := subStepWork_keeps_inv hu hs
    exact hinv
  · exact edge_keeps_inv p d hs
  · exact hs
  · exact hostRead_keeps_inv hs
  · exact powerOnReset_keeps_inv hs

/-- Settles O53: taking a move off the agenda touches no part of the invariant, and every move keeps it. -/
theorem stepKeepsLegalState : Obligations.StepKeepsLegalState := by
  intro s t hs h
  rw [step, nextMove_snd] at h
  exact runMove_keeps_inv h hs

/-! ### What an instruction can do to the configuration, the inhibit flags and the store -/

theorem exec_rdnv_cases {a : StorageAddr} {s t : State} (h : exec (.rdnv a) s = .next t) : ∃ v, t = respond v s := by
  simp only [exec, execRdnv] at h
  split at h
  · next v _ => cases h; exact ⟨v, rfl⟩
  · cases h

theorem exec_operandWrnv_cases {a : StorageAddr} {tg : Tag} {b : Byte} {s t : State}
    (h : exec (.operandWrnv a tg b) s = .next t) :
    t = setPending .none (writeCfg b s) ∨ t = setPending .none { s with nv := Memory.write s.nv a.toNat b } := by
  simp only [exec, execOperandWrnv] at h
  rcases memWrite_cases s a b with hm | hm | hm <;> rw [hm] at h <;> cases h
  · exact .inl rfl
  · exact .inr rfl

/-- An instruction keeps these registers, changes one disable bit with its mirror, writes the whole configuration with both
mirrors, or writes one byte of the store (R38, R42, R215, R216, R220, R221, R262, R267, R331). -/
theorem exec_registers_cases {i : Instr} {s t : State} (h : exec i s = .next t) :
    (t.cfg = s.cfg ∧ t.pri.inhibited = s.pri.inhibited ∧ t.aux.inhibited = s.aux.inhibited ∧ t.nv = s.nv) ∨
    (∃ p, t = disableChannel p s ∨ t = enableChannel p s) ∨
    (t.mirror ∧ t.nv = s.nv) ∨
    ∃ a tg b, i = .operandWrnv a tg b ∧ t = setPending .none { s with nv := Memory.write s.nv a.toNat b } := by
  cases i
  case auxdis => cases h; exact .inr (.inl ⟨.aux, .inl rfl⟩)
  case auxen => cases h; exact .inr (.inl ⟨.aux, .inr rfl⟩)
  case kbddis => cases h; exact .inr (.inl ⟨.pri, .inl rfl⟩)
  case kbden => cases h; exact .inr (.inl ⟨.pri, .inr rfl⟩)
  case reset c => cases h; exact .inr (.inr (.inl ⟨⟨rfl, rfl⟩, rfl⟩))
  case operandWrcfg tg b => cases h; exact .inr (.inr (.inl ⟨⟨rfl, rfl⟩, rfl⟩))
  case operandWrnv a tg b =>
    rcases exec_operandWrnv_cases h with rfl | rfl
    · exact .inr (.inr (.inl ⟨⟨rfl, rfl⟩, rfl⟩))
    · exact .inr (.inr (.inr ⟨a, tg, b, rfl, rfl⟩))
  case rdnv a =>
    obtain ⟨v, rfl⟩ := exec_rdnv_cases h
    exact .inl ⟨rfl, rfl, rfl, rfl⟩
  all_goals cases h; exact .inl ⟨rfl, rfl, rfl, rfl⟩

@[simp] theorem disableChannel_nv (p : PortId) (s : State) : (disableChannel p s).nv = s.nv := by cases p <;> rfl

@[simp] theorem enableChannel_nv (p : PortId) (s : State) : (enableChannel p s).nv = s.nv := by cases p <;> rfl

/-! ### The mirror (R38) -/

theorem State.mirror_of_kept {s t : State} (hc : t.cfg = s.cfg) (hp : t.pri.inhibited = s.pri.inhibited)
    (ha : t.aux.inhibited = s.aux.inhibited) (hs : s.mirror) : t.mirror := by
  rwa [State.mirror, hc, hp, ha]

theorem disableChannel_mirror {s : State} (p : PortId) (hs : s.mirror) : (disableChannel p s).mirror := by
  obtain ⟨hp, ha⟩ := hs
  cases p
  · exact ⟨(byteBit_set_kbd _).symm, ha.trans (byteBit_set_kbd_aux _).symm⟩
  · exact ⟨hp.trans (byteBit_set_aux_kbd _).symm, (byteBit_set_aux _).symm⟩

theorem enableChannel_mirror {s : State} (p : PortId) (hs : s.mirror) : (enableChannel p s).mirror := by
  obtain ⟨hp, ha⟩ := hs
  cases p
  · exact ⟨(byteBit_clear_kbd _).symm, ha.trans (byteBit_clear_kbd_aux _).symm⟩
  · exact ⟨hp.trans (byteBit_clear_aux_kbd _).symm, (byteBit_clear_aux _).symm⟩

theorem exec_keeps_mirror {i : Instr} {s t : State} (h : exec i s = .next t) (hs : s.mirror) : t.mirror := by
  rcases exec_registers_cases h with ⟨hc, hp, ha, -⟩ | ⟨p, rfl | rfl⟩ | ⟨hm, -⟩ | ⟨a, tg, b, -, rfl⟩
  · exact State.mirror_of_kept hc hp ha hs
  · exact disableChannel_mirror p hs
  · exact enableChannel_mirror p hs
  · exact hm
  · exact hs

/-- Settles O54: outside host bytes and power nothing of the mirror changes, and both of those write bit and flag together. -/
theorem mirrorKeptByEveryStep : Obligations.MirrorKeptByEveryStep := by
  intro s t hs h
  rcases step_cases h with ⟨hp, ha, hc, -⟩ | ⟨e, rest, -, -, rfl⟩ | ⟨-, rfl⟩ | ⟨-, -, -, u, hu, rfl⟩
  · exact State.mirror_of_kept hc hp ha hs
  · exact hs
  · exact ⟨rfl, rfl⟩
  · have hm : u.mirror := exec_keeps_mirror hu hs
    exact hm

/-- Settles O57: of the four things a step can do, the pump's transfer keeps these registers too. -/
theorem configChangesOnlyByHost : Obligations.ConfigChangesOnlyByHost := by
  intro s t h
  rcases step_cases h with ⟨hp, ha, hc, hpend, -⟩ | ⟨e, rest, -, -, rfl⟩ | ⟨hpower, -⟩ | ⟨hk, hi, hag, -⟩
  · exact .inl ⟨hc, hp, ha, hpend⟩
  · exact .inl ⟨rfl, rfl, rfl, rfl⟩
  · exact .inr (.inl hpower)
  · exact .inr (.inr ⟨hk, hi, hag⟩)

/-! ### The store (R42, R267) -/

/-- The second word of `WRNV a` is read under the pending state that carries `a`, legal or not, and nowhere else (R260, R267). -/
theorem decode_eq_operandWrnv {resets : List Byte} {m : Pending} {w : HostWord} {a : StorageAddr} {tg : Tag} {b : Byte}
    (h : decode resets m w = .operandWrnv a tg b) : m = .awaitingStoreWrite a ∧ w.byte = b := by
  cases m with
  | none =>
    obtain ⟨-, hmode, -⟩ := decode_standsFor resets (m := .none) rfl w
    rw [h] at hmode
    cases hmode
  | awaitingStoreWrite a' => cases h; exact ⟨rfl, rfl⟩
  | _ => cases h

theorem exec_nv_cases {i : Instr} {s t : State} (h : exec i s = .next t) :
    t.nv = s.nv ∨
      ∃ a tg b, i = .operandWrnv a tg b ∧ t = setPending .none { s with nv := Memory.write s.nv a.toNat b } := by
  rcases exec_registers_cases h with ⟨-, -, -, hnv⟩ | ⟨p, rfl | rfl⟩ | ⟨-, hnv⟩ | hstore
  · exact .inl hnv
  · exact .inl (disableChannel_nv p s)
  · exact .inl (enableChannel_nv p s)
  · exact .inl hnv
  · exact .inr hstore

/-- Settles O56: only the second word of `WRNV` writes the store, and it is read under `AwaitingStoreWrite` alone. -/
theorem storeChangesOnlyByStoreWrite : Obligations.StoreChangesOnlyByStoreWrite := by
  intro s t x h hne
  have hchanged : t.nv ≠ s.nv := fun hnv => hne (by rw [hnv])
  rcases step_cases h with ⟨-, -, -, -, hnv, -⟩ | ⟨e, rest, -, -, rfl⟩ | ⟨-, rfl⟩ | ⟨hk, hi, hag, u, hu, rfl⟩
  · exact absurd hnv hchanged
  · exact absurd rfl hchanged
  · exact absurd rfl hchanged
  · obtain ⟨hibf, -⟩ := exec_frame hu
    rcases exec_nv_cases hu with hnv | ⟨a, tg, b, hdec, rfl⟩
    · exact absurd hnv hchanged
    · obtain ⟨hpend, rfl⟩ := decode_eq_operandWrnv hdec
      have hx : x = a.toNat := by
        by_contra hx
        exact hne (Memory.read_write_other s.nv s.inByte hx)
      subst hx
      exact ⟨a, hpend, rfl, Memory.read_write_same s.nv a.toNat s.inByte, rfl, hi, hibf, hk, hag⟩

/-! ### The output latch (R45, R193, R194) -/

theorem State.latches_of_trace_eq {s t : State} (h : t.trace = s.trace) : t.latches = s.latches := by
  simp only [State.latches, h]

theorem clearInput_latches (s : State) : (clearInput s).latches = s.latches := latches_append_cleared _

/-- Settles O46: the pump alone adds a HostLatch event, for the entry it pops; reading the input latch adds another event. -/
theorem latchComesFromQueueFront : Obligations.LatchComesFromQueueFront := by
  intro s t h
  rcases step_cases h with ⟨-, -, -, -, -, htrace, hlatch, -⟩ | ⟨e, rest, hq, hk, rfl⟩ | ⟨hpower, rfl⟩ | ⟨-, -, -, u, hu, rfl⟩
  · exact .inl ⟨State.latches_of_trace_eq htrace, .inl hlatch⟩
  · exact .inr ⟨e, hq, latches_append_latch _ e, rfl, hk⟩
  · exact .inl ⟨rfl, .inr ⟨hpower, rfl⟩⟩
  · obtain ⟨-, -, -, hlatch, htrace, -⟩ := exec_frame hu
    exact .inl ⟨(State.latches_of_trace_eq htrace).trans (clearInput_latches _), .inl hlatch⟩

/-! ### The configuration register read back (R37) -/

/-- Settles O18: the operand is stored whole, whatever its tag, and with room in the queue `RDCFG` enqueues what is stored. -/
theorem configRoundTrip : Obligations.ConfigRoundTrip := by
  intro s x t hpend hroom
  refine ⟨setPending .awaitingConfigByte s, setPending .none (writeCfg x (setPending .awaitingConfigByte s)),
    respond x (setPending .none (writeCfg x (setPending .awaitingConfigByte s))), responseFlag, ?_, rfl, rfl, rfl, ?_, rfl, rfl⟩
  · rw [dispatch, hpend]; rfl
  · exact Queue.push_of_room (x, responseFlag) (Nat.succ_lt_succ hroom)

/-! ### Power (R46, R49, R330) -/

theorem Port.reset_inv (disabled : Bool) : (Port.reset disabled).Inv :=
  ⟨.inl ⟨rfl, rfl⟩, ⟨Nat.succ_pos 15, Nat.succ_pos 15⟩, ⟨Nat.zero_le _, fun _ => rfl⟩, fun h => h, fun _ => rfl⟩

/-- Settles O52: both ports are at their reset value, both records and the store are empty. -/
theorem resetIsLegal : Obligations.ResetIsLegal :=
  State.inv_of_parts (Port.reset_inv _) (Port.reset_inv _) ⟨rfl, rfl⟩ rfl Memory.nil_wf nofun (Nat.succ_pos 31) nofun

/-- Settles O50: an empty store reads as `NV_INIT`, and each port is `Port.reset` of its disable bit. -/
theorem powerOnValues : Obligations.PowerOnValues := by
  refine ⟨rfl, rfl, rfl, rfl, rfl, fun _ => rfl, rfl, rfl, fun p => ?_⟩
  cases p <;> exact ⟨rfl, rfl, rfl, rfl, rfl, rfl, rfl⟩

/-- Settles O51: the step is `PowerOnReset` on the state with the rest of the agenda. -/
theorem powerOnKeepsStore : Obligations.PowerOnKeepsStore := by
  intro s rest ha
  refine ⟨s.pri.powerOn _, s.aux.powerOn _, ?_, rfl, rfl⟩
  rw [step, nextMove_of_cons ha]
  rfl

end Sys2Proof.Machine
end

section
/-! PROOFS. The family of spec/20_memory.md: the internal storage space behind the two windows (R61 to R64), and the frame and the
atomicity of the edge interrupt (R70, R75). -/

namespace Sys2Proof.Machine

/-! ### The edge handler's frame (R20, R70, R75) -/

/-- The handler reads and writes the record of its own port, nothing else (R20, R75). -/
theorem edge_eq_setPort (p : PortId) (d : Level) (s : State) : edge p d s = s.setPort p ((s.port p).edge d) := rfl

/-- An edge of a reception leaves the data line alone; only an accepted frame touches the receive queue, at its end (R147, R150). -/
theorem Port.servicedEdge_of_receive {P : Port} (d : Level) (hl : P.link = .idle ∨ P.link = .receiving) :
    (P.servicedEdge d).dataDriveLow = P.dataDriveLow ∧ (P.servicedEdge d).lineLog = P.lineLog ∧
      ((P.servicedEdge d).receiveQueue = P.receiveQueue ∨
        (P.servicedEdge d).receiveQueue = P.receiveQueue ++ [P.shiftRegister]) := by
  rcases P.servicedEdge_cases d with ⟨_, _, h⟩ | ⟨_, _, h⟩ | ⟨_, _, h⟩ | ⟨_, _, h⟩ | ⟨_, _, h⟩ | ⟨ht, _⟩ | ⟨ht, _⟩ | ⟨ht, _⟩ |
    ⟨ht, _⟩
  · rw [h]; exact ⟨rfl, rfl, .inl rfl⟩
  · rw [h]; exact ⟨rfl, rfl, .inl rfl⟩
  · rw [h]; exact ⟨rfl, rfl, .inl rfl⟩
  · rw [h]; exact ⟨rfl, rfl, .inl rfl⟩
  · rw [h]
    rcases P.receiveStopBit_cases d with ⟨_, _, hs⟩ | ⟨_, hs⟩ <;> rw [hs]
    · refine ⟨rfl, rfl, ?_⟩
      rcases Queue.push_cases Config.ps2QueueSlots P.receiveQueue P.shiftRegister with ⟨_, hq⟩ | ⟨_, hq⟩
      · exact .inr hq
      · exact .inl hq
    · exact ⟨rfl, rfl, .inl rfl⟩
  all_goals simp [ht] at hl

/-- An edge of a transmission leaves the receive queue alone (R162 to R165). -/
theorem Port.servicedEdge_of_transmit {P : Port} (d : Level) (hl : ¬ (P.link = .idle ∨ P.link = .receiving)) :
    (P.servicedEdge d).receiveQueue = P.receiveQueue := by
  obtain ⟨hi, hr⟩ := not_or.1 hl
  rcases P.servicedEdge_cases d with ⟨h, _⟩ | ⟨h, _⟩ | ⟨h, _⟩ | ⟨h, _⟩ | ⟨h, _⟩ | ⟨_, _, h⟩ | ⟨_, _, h⟩ | ⟨_, _, h⟩ | ⟨_, h⟩
  · exact absurd h hi
  · exact absurd h hi
  · exact absurd h hr
  · exact absurd h hr
  · exact absurd h hr
  all_goals rw [h]; rfl

/-- The receive queue keeps its items in front: an edge adds at most the received byte (R147). -/
theorem Port.edge_receiveQueue_cases (d : Level) (P : Port) :
    (P.edge d).receiveQueue = P.receiveQueue ∨ (P.edge d).receiveQueue = P.receiveQueue ++ [P.shiftRegister] := by
  cases hi : P.inhibited with
  | true => exact .inl (by rw [Port.edge_of_inhibited d hi])
  | false =>
    rw [Port.edge_of_enabled d hi]
    by_cases hl : P.link = .idle ∨ P.link = .receiving
    · obtain ⟨-, -, hq⟩ := Port.servicedEdge_of_receive (P := { P with timeoutCounter := 0 }) d hl
      exact hq
    · exact .inl (Port.servicedEdge_of_transmit (P := { P with timeoutCounter := 0 }) d hl)

/-- Outside a transmission an edge does nothing to the data line (R150). -/
theorem Port.edge_dataLine_of_receive {P : Port} (d : Level) (hl : P.link = .idle ∨ P.link = .receiving) :
    (P.edge d).dataDriveLow = P.dataDriveLow ∧ (P.edge d).lineLog = P.lineLog := by
  cases hi : P.inhibited with
  | true => rw [Port.edge_of_inhibited d hi]; exact ⟨rfl, rfl⟩
  | false =>
    rw [Port.edge_of_enabled d hi]
    obtain ⟨hd, hlog, -⟩ := Port.servicedEdge_of_receive (P := { P with timeoutCounter := 0 }) d hl
    exact ⟨hd, hlog⟩

/-- Settles O27: the record the handler leaves is `Port.edge` of its own port's record. -/
theorem edgeWritesOwnPortOnly : Obligations.EdgeWritesOwnPortOnly := by
  intro s p d
  obtain ⟨hinhibited, hclk, htransmit⟩ := Port.edge_frame d (s.port p)
  exact ⟨(s.port p).edge d, edge_eq_setPort p d s, hinhibited, hclk, htransmit, Port.edge_receiveQueue_cases d (s.port p),
    Port.edge_dataLine_of_receive d⟩

/-- Settles O22: the step runs the handler on the state with the rest of the agenda, and the handler reads no agenda. -/
theorem edgeMoveRunsHandler : Obligations.EdgeMoveRunsHandler := by
  intro s p d rest ha
  have hport : State.port { s with agenda := rest } p = s.port p := by cases p <;> rfl
  rw [step, nextMove_of_cons ha, runMove, edge_eq_setPort, edge_eq_setPort, State.setPort_port_same, hport]

/-! ### The internal storage space (R61 to R64) -/

theorem Queue.push_succ_eq {α : Type} (n : Nat) (q : List α) (v : α) :
    Queue.push (n + 1) q v = if q.length < n then q ++ [v] else q := by
  split
  · next h => exact Queue.push_of_room v (Nat.succ_lt_succ h)
  · next h => exact Queue.push_of_full v (Nat.succ_le_succ (Nat.le_of_not_lt h))

/-- `Enqueue` with the outbound queue's capacity written out (R120, R191). -/
theorem enqueue_eq (b : Byte) (f : Bool) (s : State) :
    enqueue b f s = { s with outq := if s.outq.length < 31 then s.outq ++ [(b, f)] else s.outq } := by
  rw [enqueue, Config.outQueueSlots, Queue.push_succ_eq]

theorem exec_rdcfg (s : State) : exec .rdcfg s = .next (respond s.cfg s) := rfl

theorem exec_rdnv_of_isNvAddr (s : State) {a : StorageAddr} (h : isNvAddr a = true) :
    exec (.rdnv a) s = .next (respond (Memory.read s.nv a.toNat) s) := by
  rw [exec, execRdnv, memRead_of_isNvAddr s h]

/-- Settles O6: both commands of the read window answer what `MemRead` returns, flagged as every response. -/
theorem storageReadWindow : Obligations.StorageReadWindow := by
  refine fun s => ⟨rfl, ⟨responseFlag, ?_⟩, fun a hlo hhi => ?_⟩
  · rw [exec_rdcfg, respond, enqueue_eq]
  · have hnv : isNvAddr a = true := (isNvAddr_iff a).2 ⟨hlo, hhi⟩
    refine ⟨memRead_of_isNvAddr s hnv, responseFlag, ?_⟩
    rw [exec_rdnv_of_isNvAddr s hnv, respond, enqueue_eq]

theorem not_isNvAddr_thirtyOne : ¬ isNvAddr 31 = true := by decide

theorem memRead_thirtyOne (s : State) : memRead s 31 = none := rfl

theorem memWrite_thirtyOne (s : State) (v : Byte) : memWrite s 31 v = none := rfl

/-- Settles O7: address 31 is no address of the store, so no well-formed instruction carries it, and a host word stands for a
well-formed one. -/
theorem addressThirtyOneIsUnbacked : Obligations.AddressThirtyOneIsUnbacked := by
  refine ⟨fun s t b => ⟨memRead_thirtyOne s, memWrite_thirtyOne s b, ?_, ?_⟩, fun resets m w hm => ?_⟩
  · rw [exec, execRdnv, memRead_thirtyOne]
  · rw [exec, execOperandWrnv, memWrite_thirtyOne]
  · obtain ⟨hwf, -, -⟩ := decode_standsFor resets hm w
    refine ⟨fun h => ?_, fun h => ?_, fun t b h => ?_⟩ <;> rw [h] at hwf <;> exact not_isNvAddr_thirtyOne hwf

end Sys2Proof.Machine
end

section
/-! PROOFS. The family of spec/30_encoding.md: host words numbered as the table numbers them (R95, R97, R104), and the PS/2 frame on
the wire as a run of the edge handler, received (R90, R143 to R148) and sent (R91, R160 to R166). -/

namespace Sys2Proof.Machine

/-! ### Runs of edges -/

/-- The port after the edges with these samples, in the order of the list (R140). -/
def Port.edges (ds : List Level) (P : Port) : Port := ds.foldl (fun Q d => Port.edge d Q) P

@[simp] theorem Port.edges_nil (P : Port) : P.edges [] = P := rfl

@[simp] theorem Port.edges_cons (d : Level) (ds : List Level) (P : Port) : P.edges (d :: ds) = (P.edge d).edges ds := rfl

theorem Port.edges_append (ds es : List Level) (P : Port) : P.edges (ds ++ es) = (P.edges ds).edges es :=
  List.foldl_append

/-- A serviced edge clears the counter first, so what the counter held is not seen (R142). -/
theorem Port.edges_clearCounter {P : Port} (hi : P.inhibited = false) {ds : List Level} (h : ds ≠ []) :
    P.edges ds = Port.edges ds { P with timeoutCounter := 0 } := by
  cases ds with
  | nil => exact absurd rfl h
  | cons d ds => 
    have hclear : P.edge d = Port.edge d { P with timeoutCounter := 0 } :=
      (edge_of_enabled d hi).trans (edge_of_enabled (P := { P with timeoutCounter := 0 }) d hi).symm
    rw [edges_cons, edges_cons, hclear]

/-- The edges of one port at the head of the agenda run its handler, one step each, and touch nothing else (R70, R75). -/
theorem steps_edges (p : PortId) (ds : List Level) (rest : List Move) :
    ∀ s : State, s.agenda = ds.map (.edge p) ++ rest →
      steps ds.length s = .next ({ s with agenda := rest }.setPort p ((s.port p).edges ds)) := by
  induction ds with
  | nil =>
    rintro s rfl
    cases p <;> rfl
  | cons d ds ih =>
    intro s ha
    have hstep := edgeMoveRunsHandler s p d (ds.map (Move.edge p) ++ rest) ha
    rw [List.length_cons, steps, hstep]
    simp only [edge_eq_setPort, State.setPort_port_same]
    rw [ih _ (State.setPort_agenda _ p _), State.setPort_port_same]
    cases p <;> rfl

/-! ### A serviced edge, case by case -/

section
variable {P : Port} (d : Level) (hi : P.inhibited = false)
include hi

theorem Port.edge_startBit (hl : P.link = .idle) : P.edge false = Port.startReception { P with timeoutCounter := 0 } := by
  simp [edge_of_enabled _ hi, servicedEdge, hl]

theorem Port.edge_idle_high (hl : P.link = .idle) : P.edge true = { P with timeoutCounter := 0 } := by
  simp [edge_of_enabled _ hi, servicedEdge, hl]

theorem Port.edge_receive_data (hl : P.link = .receiving) (hb : P.bitCount < 8) :
    P.edge d = Port.receiveDataBit d { P with timeoutCounter := 0 } := by
  simp [edge_of_enabled d hi, servicedEdge, hl, hb]

theorem Port.edge_receive_parity (hl : P.link = .receiving) (hb : P.bitCount = 8) :
    P.edge d = Port.receiveParityBit d { P with timeoutCounter := 0 } := by
  simp [edge_of_enabled d hi, servicedEdge, hl, hb]

theorem Port.edge_receive_stop (hl : P.link = .receiving) (hb : P.bitCount = 9) :
    P.edge d = Port.receiveStopBit d { P with timeoutCounter := 0 } := by
  simp [edge_of_enabled d hi, servicedEdge, hl, hb]

theorem Port.edge_send_data (hl : P.link = .transmitting) (hb : P.bitCount < 8) :
    P.edge d = Port.sendDataBit { P with timeoutCounter := 0 } := by
  simp [edge_of_enabled d hi, servicedEdge, hl, hb]

theorem Port.edge_send_parity (hl : P.link = .transmitting) (hb : P.bitCount = 8) :
    P.edge d = Port.sendParityBit { P with timeoutCounter := 0 } := by
  simp [edge_of_enabled d hi, servicedEdge, hl, hb]

theorem Port.edge_send_stop (hl : P.link = .transmitting) (hb : P.bitCount = 9) :
    P.edge d = Port.sendStopBit { P with timeoutCounter := 0 } := by
  simp [edge_of_enabled d hi, servicedEdge, hl, hb]

theorem Port.edge_send_ack (hl : P.link = .transmitAck) :
    P.edge d = Port.endTransmission { P with timeoutCounter := 0 } := by
  simp [edge_of_enabled d hi, servicedEdge, hl]

end

/-! ### Receiving a frame (R143 to R148) -/

/-- What the shift register holds once these samples have entered it in the order of the list (R145, D6). -/
def shiftInAll (ds : List Level) (v : Byte) : Byte := ds.foldl (fun v d => shiftInSample d v) v

/-- The parity accumulator once these bits have toggled it (R79). -/
def toggleAll (ds : List Level) (parity : Bool) : Bool := ds.foldl toggleParity parity

/-- The data positions: each sample enters the shift register and the parity (R145). -/
theorem Port.edges_receive_data (ds : List Level) : ∀ {P : Port}, P.inhibited = false → P.link = .receiving →
    P.bitCount + ds.length ≤ 8 → Port.edges ds { P with timeoutCounter := 0 } = { P with
      timeoutCounter := 0, bitCount := P.bitCount + ds.length
      shiftRegister := shiftInAll ds P.shiftRegister, runningParity := toggleAll ds P.runningParity } := by
  induction ds with
  | nil => intro P _ _ _; rfl
  | cons d ds ih =>
    intro P hi hl hb
    rw [List.length_cons] at hb
    have hedge : Port.edge d { P with timeoutCounter := 0 } = { P.receiveDataBit d with timeoutCounter := 0 } :=
      edge_receive_data d hi hl (by dsimp only; omega)
    have hnext : (P.receiveDataBit d).bitCount + ds.length ≤ 8 := by
      simp only [receiveDataBit]; omega
    rw [edges_cons, hedge, ih (P := P.receiveDataBit d) hi hl hnext]
    simp only [receiveDataBit, shiftInAll, toggleAll, List.foldl_cons, List.length_cons, Nat.add_assoc, Nat.add_comm 1]

/-- The last two edges of a frame (R146, R147). -/
theorem Port.edges_receive_end {P : Port} (hi : P.inhibited = false) (hl : P.link = .receiving) (hb : P.bitCount = 8)
    (q t : Level) : P.edges [q, t] = Port.receiveStopBit t
      { P with bitCount := 9, timeoutCounter := 0, runningParity := toggleParity P.runningParity q } := by
  rw [edges_cons, edge_receive_parity q hi hl hb]
  exact edge_receive_stop (P := Port.receiveParityBit q { P with timeoutCounter := 0 }) t hi hl rfl

/-- A start bit that is low, eight data bits and the parity bit bring the port to its stop bit (R143 to R146). -/
theorem Port.edges_frame {P : Port} (hi : P.inhibited = false) (hl : P.link = .idle) {ds : List Level} (hlen : ds.length = 8)
    (q t : Level) : P.edges (false :: ds ++ [q, t]) = Port.receiveStopBit t { P with
      link := .receiving, bitCount := 9, timeoutCounter := 0
      shiftRegister := shiftInAll ds 0, runningParity := toggleParity (toggleAll ds false) q } := by
  have hstart : P.edge false = { P.startReception with timeoutCounter := 0 } := edge_startBit hi hl
  have hdata := edges_receive_data ds (P := P.startReception) hi rfl
    (by simp only [startReception, hlen]; omega)
  rw [List.cons_append, edges_cons, edges_append, hstart, hdata]
  have hlast : P.startReception.bitCount + ds.length = 8 := by simp only [startReception, hlen]
  refine edges_receive_end ?_ rfl ?_ q t
  · exact hi
  · exact hlast

/-- How many edges come at least before the one that may push a byte: ten from a start bit, fewer inside a frame (R143 to R147). -/
def Port.edgesBeforeStop (P : Port) : Nat := if P.link = .receiving then 9 - P.bitCount else 10

/-- A serviced edge brings the stop bit nearer by one at most, and pushes no byte before it. -/
theorem Port.servicedEdge_edgesBeforeStop (d : Level) (P : Port) :
    P.edgesBeforeStop ≤ (P.servicedEdge d).edgesBeforeStop + 1 ∧
      (0 < P.edgesBeforeStop → (P.servicedEdge d).receiveQueue = P.receiveQueue) := by
  rcases P.servicedEdge_cases d with ⟨_, _, h⟩ | ⟨hl, _, h⟩ | ⟨hl, hb, h⟩ | ⟨hl, hb, h⟩ | ⟨hl, hb, h⟩ | ⟨hl, _, h⟩ |
    ⟨hl, _, h⟩ | ⟨hl, _, h⟩ | ⟨hl, h⟩ <;> rw [h]
  · exact ⟨Nat.le_succ _, fun _ => rfl⟩
  · exact ⟨by simp [edgesBeforeStop, startReception, hl], fun _ => rfl⟩
  · refine ⟨?_, fun _ => rfl⟩
    simp only [edgesBeforeStop, receiveDataBit, hl, if_true]
    omega
  · exact ⟨by simp [edgesBeforeStop, hl, hb], fun _ => rfl⟩
  · have hpos : P.edgesBeforeStop = 0 := by
      simp only [edgesBeforeStop, hl, if_true]
      omega
    simp [hpos]
  · exact ⟨by simp [edgesBeforeStop, sendDataBit, hl], fun _ => rfl⟩
  · exact ⟨by simp [edgesBeforeStop, sendParityBit, hl], fun _ => rfl⟩
  · exact ⟨by simp [edgesBeforeStop, sendStopBit, hl], fun _ => rfl⟩
  · exact ⟨by simp [edgesBeforeStop, endTransmission, hl], fun _ => rfl⟩

theorem Port.edge_edgesBeforeStop (d : Level) (P : Port) :
    P.edgesBeforeStop ≤ (P.edge d).edgesBeforeStop + 1 ∧
      (0 < P.edgesBeforeStop → (P.edge d).receiveQueue = P.receiveQueue) := by
  cases hi : P.inhibited with
  | true =>
    rw [edge_of_inhibited d hi]
    exact ⟨Nat.le_succ _, fun _ => rfl⟩
  | false =>
    rw [edge_of_enabled d hi]
    exact servicedEdge_edgesBeforeStop d { P with timeoutCounter := 0 }

/-- Too few edges for a frame push nothing. -/
theorem Port.edges_receiveQueue_of_short (ds : List Level) : ∀ {P : Port}, ds.length ≤ P.edgesBeforeStop →
    (P.edges ds).receiveQueue = P.receiveQueue := by
  induction ds with
  | nil => intro P _; rfl
  | cons d ds ih =>
    intro P h
    rw [List.length_cons] at h
    obtain ⟨hnear, hkeep⟩ := P.edge_edgesBeforeStop d
    rw [edges_cons, ih (by omega), hkeep (by omega)]

/-- The bit of the stop edge decides with the parity, and a full queue drops the byte (R147, R123). -/
theorem Port.receiveStopBit_receiveQueue (t : Level) (P : Port) : (P.receiveStopBit t).receiveQueue =
    if t = true ∧ P.runningParity = true ∧ P.receiveQueue.length < 15 then P.receiveQueue ++ [P.shiftRegister]
    else P.receiveQueue := by
  rcases P.receiveStopBit_cases t with ⟨ht, hp, h⟩ | ⟨hbad, h⟩ <;> rw [h]
  · simpa [ht, hp, Config.ps2QueueSlots] using Queue.push_succ_eq 15 P.receiveQueue P.shiftRegister
  · rw [if_neg (by rintro ⟨ht, hp, -⟩; simp [ht, hp] at hbad)]
    rfl

/-! ### Bits and bytes (R65, R90, R92) -/

/-- Eight samples make the byte whose binary digits they are, least significant first (R90, R145). -/
theorem shiftInAll_eq_ofNat : ∀ d0 d1 d2 d3 d4 d5 d6 d7 : Level, shiftInAll [d0, d1, d2, d3, d4, d5, d6, d7] 0 =
    BitVec.ofNat 8 (d0.toNat + 2 * d1.toNat + 4 * d2.toNat + 8 * d3.toNat + 16 * d4.toNat + 32 * d5.toNat + 64 * d6.toNat +
      128 * d7.toNat) := by decide

theorem shiftInAll_dataBits : ∀ b : Byte, shiftInAll (dataBits b) 0 = b := by decide

/-- The bits of a byte toggle the accumulator to `A` (R92). -/
theorem toggleAll_dataBits (b : Byte) : toggleAll (dataBits b) false = dataParity b := by
  simp [toggleAll, dataBits, dataParity, toggleParity]

/-- With the parity bit of R92 the accumulator ends odd. -/
theorem toggleParity_parityBit (b : Byte) : toggleParity (dataParity b) (parityBit b) = true := by
  simp [toggleParity, parityBit]

theorem frame_eq (b : Byte) : frame b = false :: dataBits b ++ [parityBit b, true] := rfl

/-- The frame of a byte, received in full by a port with room (R90, R147). -/
theorem Port.edges_frame_accepted {P : Port} (hi : P.inhibited = false) (hl : P.link = .idle) (hroom : P.receiveQueue.length < 15)
    (b : Byte) : P.edges (frame b) = { P with
      bitCount := 0, timeoutCounter := 0, shiftRegister := b, runningParity := true
      receiveQueue := P.receiveQueue ++ [b] } := by
  have hpush : Queue.push Config.ps2QueueSlots P.receiveQueue b = P.receiveQueue ++ [b] :=
    Queue.push_of_room b (Nat.succ_lt_succ hroom)
  rw [frame_eq, edges_frame hi hl rfl, shiftInAll_dataBits, toggleAll_dataBits, toggleParity_parityBit]
  simp [receiveStopBit, toIdle, pushReceive, hpush, hl]

/-- Settles O30: the eleven edges of the frame are eleven steps, and the port they leave has accepted the byte. -/
theorem frameRoundTrip : Obligations.FrameRoundTrip := by
  intro s p b rest hl hi hroom ha
  have hsteps := steps_edges p (frame b) rest s ha
  rwa [Port.edges_frame_accepted hi hl hroom] at hsteps

/-- Settles O29: a low start bit begins a frame that ends at the eleventh edge; after a high one ten edges are too few for one. -/
theorem frameAcceptance : Obligations.FrameAcceptance := by
  intro P s d0 d1 d2 d3 d4 d5 d6 d7 q t hl hi
  change (P.edges [s, d0, d1, d2, d3, d4, d5, d6, d7, q, t]).receiveQueue = _
  cases s with
  | true =>
    rw [Port.edges_cons, Port.edge_idle_high hi hl,
      Port.edges_receiveQueue_of_short _ (by simp [Port.edgesBeforeStop, hl])]
    simp
  | false =>
    have hframe : P.edges [false, d0, d1, d2, d3, d4, d5, d6, d7, q, t] = _ :=
      Port.edges_frame hi hl (ds := [d0, d1, d2, d3, d4, d5, d6, d7]) rfl q t
    rw [hframe, Port.receiveStopBit_receiveQueue, shiftInAll_eq_ofNat]
    simp [toggleAll, toggleParity]

/-! ### Sending a frame (R160 to R166) -/

/-- The low `n` bits of a byte, least significant first (R65). -/
def lowBits (n : Nat) (b : Byte) : List Level := (List.range n).map (byteBit b)

theorem lowBits_eight (b : Byte) : lowBits 8 b = dataBits b := rfl

theorem lowBits_succ (n : Nat) (b : Byte) : lowBits (n + 1) b = byteBit b 0 :: lowBits n (shiftOutBit b) := by
  simp [lowBits, List.range_succ_eq_map, byteBit, shiftOutBit, Nat.add_comm 1]

/-- The data positions: each bit of the byte goes out, least significant first, whatever the samples are; where the data line is
left does not matter to the parity position, which drives it again (R162). -/
theorem Port.edges_send_data (ds : List Level) : ∀ {P : Port}, P.inhibited = false → P.link = .transmitting →
    P.bitCount + ds.length ≤ 8 → ∃ low, Port.edges ds { P with timeoutCounter := 0 } = { P with
      timeoutCounter := 0, bitCount := P.bitCount + ds.length, txByte := P.txByte >>> ds.length
      runningParity := toggleAll (lowBits ds.length P.txByte) P.runningParity, dataDriveLow := low
      lineLog := P.lineLog ++ (lowBits ds.length P.txByte).map fun bit => .data (!bit) } := by
  induction ds with
  | nil => intro P _ _ _; exact ⟨P.dataDriveLow, by simp [lowBits, toggleAll]⟩
  | cons d ds ih =>
    intro P hi hl hb
    rw [List.length_cons] at hb
    have hedge : Port.edge d { P with timeoutCounter := 0 } = { P.sendDataBit with timeoutCounter := 0 } :=
      edge_send_data d hi hl (by dsimp only; omega)
    have hnext : P.sendDataBit.bitCount + ds.length ≤ 8 := by
      simp only [sendDataBit, driveData_bitCount]; omega
    obtain ⟨low, h⟩ := ih (P := P.sendDataBit) hi hl hnext
    refine ⟨low, ?_⟩
    rw [edges_cons, hedge, h]
    simp [sendDataBit, driveData, lowBits_succ, toggleAll, shiftOutBit, Nat.add_assoc, Nat.add_comm 1,
      ← BitVec.shiftRight_add]

/-- The last three edges of a transmission: parity, stop and acknowledgment (R163 to R165). -/
theorem Port.edges_send_end {P : Port} (hi : P.inhibited = false) (hl : P.link = .transmitting) (hb : P.bitCount = 8)
    (q t a : Level) : P.edges [q, t, a] = { P with
      link := .idle, bitCount := 0, timeoutCounter := 0, dataDriveLow := false
      lineLog := P.lineLog ++ [.data P.runningParity, .data false, .data false] } := by
  have hstop := edge_send_stop (P := Port.sendParityBit { P with timeoutCounter := 0 }) t hi hl rfl
  have hack := edge_send_ack (P := Port.sendStopBit (Port.sendParityBit { P with timeoutCounter := 0 })) a hi rfl
  rw [edges_cons, edge_send_parity q hi hl hb, edges_cons, hstop]
  refine hack.trans ?_
  simp [endTransmission, sendStopBit, sendParityBit, toIdle, driveData]

/-- Eleven edges from the first position of a transmission send the byte, its parity and the stop bit, and end the transmission
(R162 to R165). -/
theorem Port.edges_transmission {P : Port} (hi : P.inhibited = false) (hl : P.link = .transmitting) (hb : P.bitCount = 0)
    (hp : P.runningParity = false) {ds : List Level} (hlen : ds.length = 11) : P.edges ds = { P with
      link := .idle, bitCount := 0, timeoutCounter := 0, txByte := 0, runningParity := dataParity P.txByte, dataDriveLow := false
      lineLog := P.lineLog ++ ((frame P.txByte).tail.map fun level => .data (!level)) ++ [.data false] } := by
  have hsplit : ds.take 8 ++ ds.drop 8 = ds := List.take_append_drop 8 ds
  have htake : (ds.take 8).length = 8 := by simp [hlen]
  obtain ⟨q, t, a, hdrop⟩ : ∃ q t a, ds.drop 8 = [q, t, a] := List.length_eq_three.1 (by simp [hlen])
  obtain ⟨low, hdata⟩ := edges_send_data (ds.take 8) hi hl (by omega)
  have hshift : P.txByte >>> 8 = 0 := BitVec.ushiftRight_eq_zero (Nat.le_refl 8)
  rw [htake, lowBits_eight, hshift] at hdata
  rw [edges_clearCounter hi (by rintro rfl; cases hlen), ← hsplit, edges_append, hdata, hdrop]
  have hlast : P.bitCount + 8 = 8 := by rw [hb]
  refine (edges_send_end ?_ ?_ ?_ q t a).trans ?_
  · exact hi
  · exact hl
  · exact hlast
  · simp [hp, toggleAll_dataBits, frame_eq, parityBit]

/-- Settles O31: `TxStart` makes the request to send and stands at the first data position, whence the edges send the frame. -/
theorem transmissionSendsFrame : Obligations.TransmissionSendsFrame := by
  refine ⟨Nat.le_add_right 100 _, fun P b rest ds hl hi hq hlen => ?_⟩
  change P.txStart.edges ds = _
  rw [Port.txStart_of_ready hl hq]
  refine Port.edges_transmission ?_ rfl rfl rfl hlen
  exact hi

/-! ### Host words as the table numbers them (R95, R97, R104) -/

/-- The tag of a word below 512 is its bit 8, 1 for the command port (R97, D17). -/
theorem tagOfBit_of_lt {w : Nat} (hw : w < 512) :
    Tag.ofBit (BitVec.ofNat 1 (w >>> 8)) = if w < 256 then .data else .cmd := by
  rw [Nat.shiftRight_eq_div_pow]
  split
  · next h => rw [Nat.div_eq_of_lt h]; rfl
  · next h => rw [show w / 2 ^ 8 = 1 by omega]; rfl

/-- The two bytes of a word below 512 are those of the host word it numbers (R95). -/
theorem tableBytes_of_lt {w : Nat} (hw : w < 512) :
    tableBytes w = HostWord.toBytes { tag := if w < 256 then .data else .cmd, byte := BitVec.ofNat 8 w } := by
  rw [tableBytes, Nat.shiftRight_eq_div_pow]
  split
  · next h => rw [Nat.div_eq_of_lt h]; rfl
  · next h => rw [show w / 2 ^ 8 = 1 by omega]; rfl

/-- A word below 512 decodes, under any pending state, to the instruction of the host word it numbers (R95, R98). -/
theorem decodeBytes_tableBytes (resets : List Byte) (m : Pending) {w : Nat} (hw : w < 512) :
    decodeBytes resets m (tableBytes w) =
      .ok (decode resets m { tag := if w < 256 then .data else .cmd, byte := BitVec.ofNat 8 w }) := by
  rw [tableBytes_of_lt hw, decodeBytes_toBytes]

theorem decodeTableWord_of_lt {w : Nat} (hw : w < 512) : decodeTableWord 16 w =
    some (decode defaultResetCodes .none { tag := if w < 256 then .data else .cmd, byte := BitVec.ofNat 8 w }) := by
  rw [decodeTableWord, if_pos (by omega), decodeBytes_tableBytes _ _ hw]

/-- Settles O1: thirteen words of the command map, each decoded by evaluation. -/
theorem listedWordsDecode : Obligations.ListedWordsDecode := by
  refine ⟨?_, ?_, ?_, ?_, ?_, ?_, ?_, ?_, ?_, ?_, ?_, ?_, rfl⟩
  all_goals
    rw [decodeTableWord_of_lt (by decide)]
    rfl

/-- The step of a state whose main loop is about to service a full input latch: the word is read and run, and the pass starts over
(R196, R260, R281). -/
theorem step_serviceInput {s : State} {rest : List Move} (ha : s.agenda = .loop :: rest) (hph : s.phase = .serviceInput)
    (hb : s.ibf = true) : step s = mapNext (State.setPhase .txStartPri)
      (exec (decode s.resetCodes s.pending { tag := s.inTag, byte := s.inByte }) (clearInput { s with agenda := rest })) := by
  rw [step, nextMove_of_cons ha]
  simp only [runMove, loopStep, hph, subStepWork]
  exact congrArg _ (serviceInput_of_ready hb)

/-- Settles O5: the placed word is the one the eighth sub-step reads, and the table's own reading of it is the same decoder's. -/
theorem fetchWordRunsNext : Obligations.FetchWordRunsNext := by
  refine fun s n w hw => ⟨fun i hi => ?_, _, decodeTableWord_of_lt hw, decodeBytes_tableBytes _ _ hw⟩
  rw [decodeBytes_tableBytes _ _ hw] at hi
  cases hi
  rw [step_serviceInput (rest := s.agenda) rfl rfl rfl, ← tagOfBit_of_lt hw]
  rfl

end Sys2Proof.Machine
end

section
/-! PROOFS. The family of spec/40_queue_ops.md: the results of the queue operations (R121 to R124), the FIFO law for every run of
pushes and pops (R126, R127), and the circular buffer as a refinement of the list of its items (R120, R125, R128). -/

namespace Sys2Proof.Machine

variable {α : Type}

/-! ### The list of items (R121 to R124) -/

theorem Queue.isEmpty_iff_length (q : List α) : Queue.isEmpty q = true ↔ q.length = 0 := by
  rw [Queue.isEmpty_iff, List.length_eq_zero_iff]

/-- Within the capacity bound, a full queue holds exactly one item less than it has slots (R122). -/
theorem Queue.isFull_iff_length {n : Nat} {q : List α} (h : q.length < n) : Queue.isFull n q = true ↔ q.length + 1 = n := by
  rw [Queue.isFull_iff]
  omega

/-- Settles O38: the laws of the list operations, collected. -/
theorem queueOperationResults : Obligations.QueueOperationResults := by
  refine fun α n d v q => ⟨Queue.isEmpty_iff_length q, fun h => ?_, fun h => ?_, fun h => ?_, Queue.pop_nil d, Queue.pop_cons d v q⟩
  · rw [Queue.isFull_iff_length h]
    omega
  · exact Queue.push_of_full v ((Queue.isFull_iff n q).1 h)
  · exact Queue.push_of_room v ((Queue.isFull_eq_false_iff n q).1 h)

/-! ### The FIFO law (R126, R127) -/

/-- The state of a run of pushes and pops: the capacity bound holds, and what was popped, followed by what is held, is what was
pushed and not dropped (R126, R127). -/
def Queue.Fifo (n : Nat) (held pushed popped : List α) : Prop := held.length < n ∧ popped ++ held = pushed

theorem Queue.Fifo.push {n : Nat} {held pushed popped : List α} (v : α) (h : Queue.Fifo n held pushed popped) :
    Queue.Fifo n (Queue.push n held v) (if Queue.isFull n held then pushed else pushed ++ [v]) popped := by
  obtain ⟨hlen, hlog⟩ := h
  refine ⟨Queue.push_length_lt v hlen, ?_⟩
  rw [Queue.push]
  split
  · exact hlog
  · rw [← List.append_assoc, hlog]

theorem Queue.Fifo.pop {n : Nat} {held pushed popped : List α} (d : α) (h : Queue.Fifo n held pushed popped) :
    Queue.Fifo n (Queue.pop d held).2 pushed
      (if Queue.isEmpty held then popped else popped ++ [(Queue.pop d held).1]) := by
  obtain ⟨hlen, hlog⟩ := h
  refine ⟨(Queue.pop_length_le d held).trans_lt hlen, ?_⟩
  cases held with
  | nil => exact hlog
  | cons v rest =>
    rw [← hlog, Queue.pop_cons, Queue.isEmpty_cons, if_neg Bool.false_ne_true]
    exact (List.append_cons popped v rest).symm

/-- Pushes with no pop between them fill the queue with the first items and drop the others (R126). -/
theorem Queue.foldl_push {n : Nat} (vs : List α) : ∀ {q : List α}, q.length < n →
    vs.foldl (Queue.push n) q = (q ++ vs).take (n - 1) := by
  induction vs with
  | nil =>
    intro q h
    rw [List.foldl_nil, List.append_nil, List.take_of_length_le (Nat.le_sub_one_of_lt h)]
  | cons v vs ih =>
    intro q h
    rw [List.foldl_cons, ih (Queue.push_length_lt v h)]
    rcases Queue.push_cases n q v with ⟨_, hp⟩ | ⟨hfull, hp⟩ <;> rw [hp]
    · rw [← List.append_cons]
    · have hn : n - 1 = q.length := by omega
      rw [List.take_left' hn.symm, List.take_left' hn.symm]

/-- Settles O37: `Queue.Fifo` holds of the empty queue and is kept by every push and pop; the pushes of E1 are
`Queue.foldl_push` from the empty queue. -/
theorem queueFifoAndCapacity : Obligations.QueueFifoAndCapacity := by
  refine fun α n d hn => ⟨fun ops => ?_, fun vs _ => Queue.foldl_push vs hn⟩
  intro r
  have hfifo : Queue.Fifo n r.1 r.2.1 r.2.2 := by
    refine List.foldlRecOn ops _ (motive := fun r : List α × List α × List α => Queue.Fifo n r.1 r.2.1 r.2.2) ⟨hn, rfl⟩ ?_
    intro r hr op _
    cases op with
    | some v => exact hr.push v
    | none => exact hr.pop d
  obtain ⟨hlen, hlog⟩ := hfifo
  exact ⟨Nat.le_sub_one_of_lt hlen, hlog⟩

/-! ### The circular buffer: the slots from the tail on (R120, R125, R128) -/

/-- The index of the slot `k` places after the tail (R125, R128). -/
def RingBuffer.slotAt (q : RingBuffer α) (k : Nat) : Nat := (q.tail + k) % q.slots

theorem RingBuffer.items_eq_map_slotAt (d : α) (q : RingBuffer α) :
    q.items d = (List.range q.len).map (fun k => q.buf.getD (q.slotAt k) d) := rfl

@[simp] theorem RingBuffer.length_items (d : α) (q : RingBuffer α) : (q.items d).length = q.len := by
  simp [RingBuffer.items]

theorem RingBuffer.succ_slotAt (q : RingBuffer α) (k : Nat) : q.succ (q.slotAt k) = q.slotAt (k + 1) :=
  Nat.mod_add_mod ..

/-- Fewer than N places after the tail, different places are different slots. -/
theorem RingBuffer.slotAt_inj {q : RingBuffer α} {j k : Nat} (hj : j < q.slots) (hk : k < q.slots) :
    q.slotAt j = q.slotAt k ↔ j = k := by
  refine ⟨fun h => ?_, fun h => h ▸ rfl⟩
  exact (Nat.ModEq.add_left_cancel' q.tail h).eq_of_lt_of_lt hj hk

section
variable {q : RingBuffer α} (h : q.wf)
include h

theorem RingBuffer.slots_pos : 0 < q.slots := Nat.zero_lt_of_lt h.1

theorem RingBuffer.succ_lt_slots (i : Nat) : q.succ i < q.slots := Nat.mod_lt _ (RingBuffer.slots_pos h)

theorem RingBuffer.len_lt_slots : q.len < q.slots := Nat.mod_lt _ (RingBuffer.slots_pos h)

theorem RingBuffer.slotAt_zero : q.slotAt 0 = q.tail := Nat.mod_eq_of_lt h.2

theorem RingBuffer.slotAt_slots : q.slotAt q.slots = q.tail := by
  rw [RingBuffer.slotAt, Nat.add_mod_right, Nat.mod_eq_of_lt h.2]

/-- The head is the slot after the last item (R120, R125). -/
theorem RingBuffer.slotAt_len : q.slotAt q.len = q.head := by
  obtain ⟨hhead, htail⟩ := h
  have hsum : q.tail + (q.head + q.slots - q.tail) = q.head + q.slots := by omega
  rw [RingBuffer.slotAt, RingBuffer.len, Nat.add_mod_mod, hsum, Nat.add_mod_right, Nat.mod_eq_of_lt hhead]

/-- The number of items is the one distance below N from the tail to the head. -/
theorem RingBuffer.len_eq_of_slotAt_eq_head {k : Nat} (hk : k < q.slots) (hhead : q.slotAt k = q.head) : q.len = k :=
  (RingBuffer.slotAt_inj (RingBuffer.len_lt_slots h) hk).1 ((RingBuffer.slotAt_len h).trans hhead.symm)

/-- The two tests of R121 agree: `head == tail` and `len(q) == 0`. -/
theorem RingBuffer.isEmpty_iff_len : q.isEmpty = true ↔ q.len = 0 := by
  rw [RingBuffer.isEmpty, decide_eq_true_iff, ← RingBuffer.slotAt_len h, ← RingBuffer.slotAt_zero h]
  exact RingBuffer.slotAt_inj (RingBuffer.len_lt_slots h) (RingBuffer.slots_pos h)

theorem RingBuffer.succ_head : q.succ q.head = q.slotAt (q.len + 1) := by
  rw [← RingBuffer.slotAt_len h, RingBuffer.succ_slotAt]

/-- The two tests of R122 agree: `(head + 1) mod N == tail` and `len(q) == N - 1`. -/
theorem RingBuffer.isFull_iff_len : q.isFull = true ↔ q.len + 1 = q.slots := by
  rw [RingBuffer.isFull, decide_eq_true_iff, RingBuffer.succ_head h]
  refine ⟨fun hfull => ?_, fun hlen => by rw [hlen, RingBuffer.slotAt_slots h]⟩
  by_contra hne
  have hroom : q.len + 1 < q.slots := Nat.lt_of_le_of_ne (RingBuffer.len_lt_slots h) hne
  rw [← RingBuffer.slotAt_zero h, RingBuffer.slotAt_inj hroom (RingBuffer.slots_pos h)] at hfull
  exact Nat.succ_ne_zero _ hfull

theorem RingBuffer.isEmpty_eq_items (d : α) : q.isEmpty = Queue.isEmpty (q.items d) := by
  rw [Bool.eq_iff_iff, RingBuffer.isEmpty_iff_len h, Queue.isEmpty_iff_length, RingBuffer.length_items]

theorem RingBuffer.length_items_lt_slots (d : α) : (q.items d).length < q.slots :=
  (RingBuffer.length_items d q).trans_lt (RingBuffer.len_lt_slots h)

theorem RingBuffer.isFull_eq_items (d : α) : q.isFull = Queue.isFull q.slots (q.items d) := by
  rw [Bool.eq_iff_iff, RingBuffer.isFull_iff_len h, Queue.isFull_iff_length (RingBuffer.length_items_lt_slots h d),
    RingBuffer.length_items]

end

/-! ### The circular buffer: `Push` (R123) -/

/-- What `Push` writes when there is room: the value at the head, and the head moved on (R123). -/
def RingBuffer.store (q : RingBuffer α) (v : α) : RingBuffer α := { q with buf := q.buf.set q.head v, head := q.succ q.head }

theorem RingBuffer.push_eq (q : RingBuffer α) (v : α) : q.push v = if q.isFull then q else q.store v := rfl

@[simp] theorem RingBuffer.store_slots (q : RingBuffer α) (v : α) : (q.store v).slots = q.slots := List.length_set

@[simp] theorem RingBuffer.store_slotAt (q : RingBuffer α) (v : α) (k : Nat) : (q.store v).slotAt k = q.slotAt k := by
  rw [RingBuffer.slotAt, RingBuffer.store_slots]
  rfl

theorem RingBuffer.store_wf {q : RingBuffer α} (h : q.wf) (v : α) : (q.store v).wf := by
  rw [RingBuffer.wf, RingBuffer.store_slots]
  exact ⟨RingBuffer.succ_lt_slots h q.head, h.2⟩

theorem RingBuffer.store_len {q : RingBuffer α} (h : q.wf) (v : α) (hroom : q.len + 1 < q.slots) :
    (q.store v).len = q.len + 1 := by
  refine RingBuffer.len_eq_of_slotAt_eq_head (RingBuffer.store_wf h v) ?_ ?_
  · rwa [RingBuffer.store_slots]
  · rw [RingBuffer.store_slotAt, ← RingBuffer.succ_head h]
    rfl

/-- The slot written is after those of the items, none of which changes (R123, R125). -/
theorem RingBuffer.store_items {q : RingBuffer α} (h : q.wf) (d v : α) (hroom : q.len + 1 < q.slots) :
    (q.store v).items d = q.items d ++ [v] := by
  have hlen : q.len < q.slots := RingBuffer.len_lt_slots h
  have hnew : (q.store v).buf.getD q.head d = v := by
    rw [RingBuffer.store, List.getD_eq_getElem?_getD, List.getElem?_set_self h.1, Option.getD_some]
  have hold : ∀ k ∈ List.range q.len, (q.store v).buf.getD (q.slotAt k) d = q.buf.getD (q.slotAt k) d := by
    intro k hk
    have hk : k < q.len := List.mem_range.1 hk
    have hne : q.head ≠ q.slotAt k := by
      rw [← RingBuffer.slotAt_len h, Ne, RingBuffer.slotAt_inj hlen (hk.trans hlen)]
      exact hk.ne'
    rw [RingBuffer.store, List.getD_eq_getElem?_getD, List.getElem?_set_ne hne, List.getD_eq_getElem?_getD]
  simp only [RingBuffer.items_eq_map_slotAt, RingBuffer.store_len h v hroom, RingBuffer.store_slotAt, List.range_succ,
    List.map_append, List.map_singleton, RingBuffer.slotAt_len h, hnew, List.map_congr_left hold]

/-- `Push` on the buffer is `Push` on the list of its items (R123). -/
theorem RingBuffer.push_refines {q : RingBuffer α} (h : q.wf) (d v : α) :
    (q.push v).wf ∧ (q.push v).slots = q.slots ∧ (q.push v).items d = Queue.push q.slots (q.items d) v := by
  rw [RingBuffer.push_eq, Queue.push, ← RingBuffer.isFull_eq_items h d]
  split
  · exact ⟨h, rfl, rfl⟩
  · next hfull =>
    rw [RingBuffer.isFull_iff_len h] at hfull
    exact ⟨RingBuffer.store_wf h v, RingBuffer.store_slots q v,
      RingBuffer.store_items h d v (Nat.lt_of_le_of_ne (RingBuffer.len_lt_slots h) hfull)⟩

/-! ### The circular buffer: `Pop` (R124) -/

/-- What `Pop` leaves when there is an item: the tail moved on (R124). -/
def RingBuffer.advance (q : RingBuffer α) : RingBuffer α := { q with tail := q.succ q.tail }

theorem RingBuffer.pop_eq (d : α) (q : RingBuffer α) :
    q.pop d = if q.isEmpty then (d, q) else (q.buf.getD q.tail d, q.advance) := rfl

theorem RingBuffer.advance_wf {q : RingBuffer α} (h : q.wf) : q.advance.wf := ⟨h.1, RingBuffer.succ_lt_slots h q.tail⟩

theorem RingBuffer.advance_slotAt (q : RingBuffer α) (k : Nat) : q.advance.slotAt k = q.slotAt (k + 1) := by
  rw [Nat.add_comm]
  exact (Nat.mod_add_mod ..).trans (congrArg (· % q.slots) (Nat.add_assoc ..))

theorem RingBuffer.advance_len {q : RingBuffer α} (h : q.wf) {k : Nat} (hk : q.len = k + 1) : q.advance.len = k := by
  have hlt : k + 1 < q.slots := by
    rw [← hk]
    exact RingBuffer.len_lt_slots h
  refine RingBuffer.len_eq_of_slotAt_eq_head (RingBuffer.advance_wf h) (Nat.lt_of_succ_lt hlt) ?_
  rw [RingBuffer.advance_slotAt, ← hk, RingBuffer.slotAt_len h]
  rfl

/-- The item at the tail is the oldest, and the other items stay (R124, R125). -/
theorem RingBuffer.items_of_not_empty {q : RingBuffer α} (h : q.wf) (d : α) (hne : q.len ≠ 0) :
    q.items d = q.buf.getD q.tail d :: q.advance.items d := by
  obtain ⟨k, hk⟩ := Nat.exists_eq_succ_of_ne_zero hne
  simp only [RingBuffer.items_eq_map_slotAt, RingBuffer.advance_len h hk, hk, RingBuffer.advance_slotAt, Nat.succ_eq_add_one,
    List.range_succ_eq_map, List.map_cons, List.map_map, RingBuffer.slotAt_zero h]
  rfl

/-- `Pop` on the buffer is `Pop` on the list of its items (R124). -/
theorem RingBuffer.pop_refines {q : RingBuffer α} (h : q.wf) (d : α) :
    (q.pop d).2.wf ∧ (q.pop d).2.slots = q.slots ∧ (q.pop d).1 = (Queue.pop d (q.items d)).1 ∧
      (q.pop d).2.items d = (Queue.pop d (q.items d)).2 := by
  rw [RingBuffer.pop_eq]
  split
  · next hempty =>
    rw [RingBuffer.isEmpty_eq_items h d, Queue.isEmpty_iff] at hempty
    rw [hempty]
    exact ⟨h, rfl, rfl, rfl⟩
  · next hempty =>
    rw [RingBuffer.isEmpty_iff_len h] at hempty
    rw [RingBuffer.items_of_not_empty h d hempty]
    exact ⟨RingBuffer.advance_wf h, rfl, rfl, rfl⟩

/-- Settles O36: both tests and both operations of the circular buffer, each against the list of its items. -/
theorem ringRefinesList : Obligations.RingRefinesList :=
  fun _ d v _ h => ⟨RingBuffer.length_items_lt_slots h d, RingBuffer.isEmpty_eq_items h d, RingBuffer.isFull_eq_items h d,
    RingBuffer.push_refines h d v, RingBuffer.pop_refines h d⟩

end Sys2Proof.Machine
end

section
/-! PROOFS. The family of spec/41_transceiver_receive.md: the edges of a reception one by one (R142 to R147), and what an inhibited
port does: it ignores its edges (R141) and loses the byte it is given to send (R178, R344). -/

namespace Sys2Proof.Machine

/-! ### An inhibited port (R141, R220, R221) -/

theorem edge_of_inhibited {s : State} {p : PortId} (hi : (s.port p).inhibited = true) (d : Level) : edge p d s = s :=
  State.updPort_of_fixed s p _ (Port.edge_of_inhibited d hi)

/-- Settles O21: the step takes the edge off the agenda, and the handler returns the state it is given. -/
theorem inhibitedPortIgnoresEdge : Obligations.InhibitedPortIgnoresEdge := by
  intro s p d rest hi
  have hedge : edge p d s = s := edge_of_inhibited hi d
  refine ⟨hedge, fun ha => ?_⟩
  have hport : State.port { s with agenda := rest } p = s.port p := by cases p <;> rfl
  rw [edgeMoveRunsHandler s p d rest ha, hedge, ← hport, State.setPort_port_self]

theorem dispatch_kbddis {s : State} (h : s.pending = .none) :
    dispatch { tag := .cmd, byte := 0xAD } s = .next (disableChannel .pri s) := by
  rw [dispatch, h]
  rfl

theorem dispatch_kbden {s : State} (h : s.pending = .none) :
    dispatch { tag := .cmd, byte := 0xAE } s = .next (enableChannel .pri s) := by
  rw [dispatch, h]
  rfl

/-- Settles O20: `KBDDIS` sets the inhibit flag, which makes the state a fixed point of every edge, and `KBDEN` clears it with the
clock line. -/
theorem disabledKeyboardIgnoresEdges : Obligations.DisabledKeyboardIgnoresEdges := by
  intro s ds hpend
  have hignored : ds.foldl (fun v d => edge .pri d v) (disableChannel .pri s) = disableChannel .pri s :=
    List.foldl_fixed' (edge_of_inhibited (p := .pri) rfl) ds
  refine ⟨disableChannel .pri s, enableChannel .pri (disableChannel .pri s), dispatch_kbddis hpend, hignored, ?_, rfl, rfl, rfl⟩
  rw [hignored]
  exact dispatch_kbden hpend

/-! ### A byte for an inhibited port (R160, R170, R178, R344) -/

/-- Up to the threshold `TimeoutStep` only counts (R170, D12). -/
theorem Port.timeoutStep_iterate {P : Port} (hl : P.link ≠ .idle) : ∀ k, P.timeoutCounter + k ≤ Config.timeoutThreshold →
    Port.timeoutStep^[k] P = { P with timeoutCounter := P.timeoutCounter + k } := by
  intro k
  induction k with
  | zero => intro _; rfl
  | succ k ih =>
    intro hk
    have hbelow : ¬ P.timeoutCounter + k + 1 > Config.timeoutThreshold := by omega
    rw [Function.iterate_succ_apply', ih (by omega), timeoutStep, if_neg hl, if_neg hbelow, Nat.add_assoc]

/-- A port in a frame whose counter was just cleared is recovered one step past the threshold (R170, R171, D12). -/
theorem Port.timeoutStep_iterate_recovers {P : Port} (hl : P.link ≠ .idle) (ht : P.timeoutCounter = 0) :
    Port.timeoutStep^[Config.timeoutThreshold + 1] P = { P with
      link := .idle, bitCount := 0, timeoutCounter := 0, clkDriveLow := false, dataDriveLow := false
      lineLog := P.lineLog ++ [.clk false, .data false] } := by
  have hcount := timeoutStep_iterate hl Config.timeoutThreshold (by omega)
  have hpast : P.timeoutCounter + Config.timeoutThreshold + 1 > Config.timeoutThreshold := by omega
  rw [Function.iterate_succ_apply', hcount, timeoutStep, if_neg hl, if_pos hpast, recover_eq]

/-- Settles O35: the inhibit flag survives `TxStart`, so no edge moves the transmission on, and recovery keeps the queues as
`TxStart` left them, without the byte. -/
theorem disabledChannelLosesByte : Obligations.DisabledChannelLosesByte := by
  intro P b rest ds hl hi ht hq Q
  obtain ⟨hinhibited, hreceive, hcounter, -⟩ := P.txStart_frame
  have hQ : Q = P.txStart := List.foldl_fixed' (fun d => Port.edge_of_inhibited d (hinhibited.trans hi)) ds
  have hstarted := Port.txStart_of_ready hl hq
  have hlink : P.txStart.link = .transmitting := by rw [hstarted]
  have hrecovered := Port.timeoutStep_iterate_recovers (P := P.txStart) (by simp [hlink]) (hcounter.trans ht)
  rw [hQ, hrecovered]
  refine ⟨rfl, ?_, hinhibited.trans hi, hlink, rfl, ?_, hreceive, rfl, hinhibited.trans hi⟩ <;> rw [hstarted]

/-! ### The edges of a reception (R142 to R147) and the parity edge of a transmission (R163) -/

/-- Settles O23: in either direction the handler is at its parity position. -/
theorem parityBitEdges : Obligations.ParityBitEdges := by
  intro s p d hi hb
  refine ⟨fun hl => ?_, fun hl => ?_⟩
  · rw [edge_eq_setPort, Port.edge_receive_parity d hi hl hb]
    rfl
  · rw [edge_eq_setPort, Port.edge_send_parity d hi hl hb]
    rfl

/-- The received sample on top of the seven later bits of the old byte (R145, D6). -/
theorem shiftInSample_getLsbD (d : Level) (v : Byte) (i : Nat) : (shiftInSample d v).getLsbD i =
    if i < 7 then (v.extractLsb' 1 7).getLsbD i else (BitVec.ofBool d).getLsbD (i - 7) :=
  BitVec.getLsbD_append

theorem shiftInSample_getLsbD_top (d : Level) (v : Byte) : (shiftInSample d v).getLsbD 7 = d := by
  rw [shiftInSample_getLsbD]
  simp

theorem shiftInSample_getLsbD_of_lt (d : Level) (v : Byte) {i : Nat} (h : i < 7) :
    (shiftInSample d v).getLsbD i = v.getLsbD (i + 1) := by
  simp [shiftInSample_getLsbD, h, Nat.add_comm 1]

/-- The stop edge ends the frame; of the rest of the record only the receive queue can change (R147, D7). -/
theorem Port.receiveStopBit_eq (d : Level) (P : Port) : P.receiveStopBit d = { P with
    link := .idle, bitCount := 0, receiveQueue := (P.receiveStopBit d).receiveQueue } := by
  rcases P.receiveStopBit_cases d with ⟨-, -, h⟩ | ⟨-, h⟩ <;> rw [h] <;> rfl

/-- Settles O24: the start, data and stop positions of the handler; the byte of the data edge is `shiftInSample`'s. -/
theorem receiveEdges : Obligations.ReceiveEdges := by
  intro s p d hi
  refine ⟨fun hl => ?_, fun hl hb => ⟨shiftInSample d (s.port p).shiftRegister, ?_, shiftInSample_getLsbD_top d _,
    fun i h => shiftInSample_getLsbD_of_lt d _ h⟩, fun hl hb => ?_⟩
  · cases d with
    | true => rw [edge_eq_setPort, Port.edge_idle_high hi hl]; rfl
    | false => rw [edge_eq_setPort, Port.edge_startBit hi hl]; rfl
  · rw [edge_eq_setPort, Port.edge_receive_data d hi hl hb]
    rfl
  · rw [edge_eq_setPort, Port.edge_receive_stop d hi hl hb, Port.receiveStopBit_eq, Port.receiveStopBit_receiveQueue]

end Sys2Proof.Machine
end

section
/-! PROOFS. The family of spec/42_transceiver_transmit.md: the start of a transmission (R160, R161), its edges one by one (R162, R164,
R165, R167) and the recovery of a stalled port (R170, R171). -/

namespace Sys2Proof.Machine

/-! ### Timeout recovery (R170, R171) -/

/-- Settles O34: from a counter that was just cleared, `TimeoutStep` counts up to the threshold and recovers the port past it. -/
theorem stalledPortRecovers : Obligations.StalledPortRecovers := by
  intro P hl ht
  refine ⟨fun k hk => ?_, Port.timeoutStep_iterate_recovers hl ht⟩
  have hcount := Port.timeoutStep_iterate hl k (by omega)
  rwa [ht, Nat.zero_add] at hcount

theorem Port.timeoutStep_of_idle {P : Port} (hl : P.link = .idle) : P.timeoutStep = P := if_pos hl

/-- In a frame `TimeoutStep` counts, or recovers the port when the count exceeds the threshold (R170, D12). -/
theorem Port.timeoutStep_of_busy {P : Port} (hl : P.link ≠ .idle) : P.timeoutStep =
    if P.timeoutCounter + 1 > Config.timeoutThreshold then P.recover
    else { P with timeoutCounter := P.timeoutCounter + 1 } := if_neg hl

theorem timeoutStep_eq_setPort (p : PortId) (s : State) : timeoutStep p s = s.setPort p (s.port p).timeoutStep := rfl

/-- Settles O33: an idle port is a fixed point of `TimeoutStep`, and in a frame recovery is the record the statement writes. -/
theorem timeoutStepResult : Obligations.TimeoutStepResult := by
  intro s p
  refine ⟨fun hl => State.updPort_of_fixed s p _ (Port.timeoutStep_of_idle hl), fun hl => ?_⟩
  rw [timeoutStep_eq_setPort, Port.timeoutStep_of_busy hl, Port.recover_eq]

/-! ### The start of a transmission (R160, R161) -/

theorem txStart_eq_setPort (p : PortId) (s : State) : txStart p s = s.setPort p (s.port p).txStart := rfl

/-- Settles O32: a port that is busy or has nothing to send is a fixed point of `TxStart`; any other starts, its inhibit flag
unread. -/
theorem txStartResult : Obligations.TxStartResult := by
  intro s p
  refine ⟨fun h => State.updPort_of_fixed s p _ ?_, fun b rest hl hq => ?_⟩
  · rcases h with hbusy | hempty
    · exact Port.txStart_of_busy hbusy
    · exact Port.txStart_of_empty hempty
  · rw [txStart_eq_setPort, Port.txStart_of_ready hl hq]

/-! ### The edges of a transmission (R162, R164, R165, R167) -/

/-- The transmitted byte moves down by one bit, bit 0 having been sent (R162). -/
theorem shiftOutBit_getLsbD (v : Byte) (i : Nat) : (shiftOutBit v).getLsbD i = v.getLsbD (i + 1) := by
  rw [shiftOutBit, BitVec.getLsbD_ushiftRight, Nat.add_comm]

/-- Settles O25: the data, stop and acknowledgment positions of the handler; the byte the data edge leaves is `shiftOutBit`'s. -/
theorem transmitEdges : Obligations.TransmitEdges := by
  intro s p d hi
  refine ⟨fun hl hb => ⟨shiftOutBit (s.port p).txByte, ?_, ?_, fun i _ => shiftOutBit_getLsbD _ i⟩, fun hl hb => ?_, fun hl => ?_⟩
  · rw [edge_eq_setPort, Port.edge_send_data d hi hl hb]
    rfl
  · rw [shiftOutBit_getLsbD]
    exact BitVec.getLsbD_of_ge _ 8 (Nat.le_refl 8)
  · rw [edge_eq_setPort, Port.edge_send_stop d hi hl hb]
    rfl
  · rw [edge_eq_setPort, Port.edge_send_ack d hi hl]
    rfl

/-- No transmit rule reads the sample (R167). -/
theorem Port.servicedEdge_sample_irrel {P : Port} (hl : P.link = .transmitting ∨ P.link = .transmitAck) (d e : Level) :
    P.servicedEdge d = P.servicedEdge e := by
  rcases hl with hl | hl <;> rw [servicedEdge, servicedEdge, hl]

theorem Port.edge_sample_irrel {P : Port} (hl : P.link = .transmitting ∨ P.link = .transmitAck) (d e : Level) :
    P.edge d = P.edge e := by
  cases hi : P.inhibited with
  | true => rw [edge_of_inhibited d hi, edge_of_inhibited e hi]
  | false =>
    rw [edge_of_enabled d hi, edge_of_enabled e hi]
    exact servicedEdge_sample_irrel (P := { P with timeoutCounter := 0 }) hl d e

/-- Settles O26: an inhibited port ignores the edge with its sample, and the serviced edge of a transmission does not read it. -/
theorem transmitIgnoresSample : Obligations.TransmitIgnoresSample := by
  intro s p hl
  rw [edge_eq_setPort, edge_eq_setPort, Port.edge_sample_irrel hl true false]

end Sys2Proof.Machine
end

section
/-! PROOFS. The family of spec/43_host_bridge.md: the operations of the bridge (R191 to R197), the host's two moves (R198, R199), the
servicing of a host word as a step (R260, R281), how often a pass latches (R194, R280), and when a queued entry is latched (R282). -/

namespace Sys2Proof.Machine

/-! ### The bridge's operations (R191, R193, R196) -/

/-- Settles O39: `Push` with the 32-slot capacity, which keeps the bound of every queue. -/
theorem enqueueResult : Obligations.EnqueueResult := by
  refine fun s b f => ⟨enqueue_eq b f s, fun h => ?_⟩
  exact Nat.le_of_lt_succ (Queue.push_length_lt (b, f) (Nat.lt_succ_of_le h))

/-- Settles O40: the two cases of the outbound queue. -/
theorem pumpOutputResult : Obligations.PumpOutputResult :=
  fun _ => ⟨fun _ _ _ hq => pumpOutput_of_cons hq, pumpOutput_of_nil⟩

theorem readInput_of_ready {s : State} (h : s.ibf = true) :
    readInput s = .next ({ tag := s.inTag, byte := s.inByte }, clearInput s) := if_pos h

theorem readInput_of_not_ready {s : State} (h : s.ibf = false) : readInput s = .refused .readInputNotReady := by
  rw [readInput, isInputReady, h]
  rfl

/-- Settles O41: the two levels of IBF. -/
theorem readInputResult : Obligations.ReadInputResult :=
  fun _ => ⟨readInput_of_ready, fun h => ⟨readInput_of_not_ready h, serviceInput_of_not_ready h⟩⟩

/-! ### The host's moves (R198, R199) -/

theorem hostWrite_of_empty {s : State} (t : Tag) (b : Byte) (h : s.ibf = false) :
    hostWrite t b s = .next { s with ibf := true, inByte := b, inTag := t } := by
  rw [hostWrite, h]
  rfl

theorem hostWrite_of_full {s : State} (t : Tag) (b : Byte) (h : s.ibf = true) :
    hostWrite t b s = .refused .hostWriteWhileFull := if_pos h

/-- A host read writes the record of reads and the count of draws only, and reads the latch if it was ever written (R199). -/
theorem hostRead_eq (s : State) : ∃ e n, hostRead s = { s with hostReads := s.hostReads ++ [e], freeCount := n } ∧
    ∀ x, s.outLatch = some x → e = x := by
  unfold hostRead
  split
  · next e he => exact ⟨e, s.freeCount, rfl, fun x hx => Option.some.inj (he.symm.trans hx)⟩
  · next he => exact ⟨_, _, rfl, fun x hx => nomatch he.symm.trans hx⟩

/-- Settles O44: the step runs the host's move on the state with the rest of the agenda. -/
theorem hostMoves : Obligations.HostMoves := by
  refine fun s rest => ⟨fun t b ha => ?_, fun ha => ?_⟩ <;> rw [step, nextMove_of_cons ha]
  · exact ⟨hostWrite_of_empty (s := { s with agenda := rest }) t b, hostWrite_of_full (s := { s with agenda := rest }) t b⟩
  · obtain ⟨e, n, hread, he⟩ := hostRead_eq { s with agenda := rest }
    exact ⟨e, n, congrArg _ hread, he⟩

/-! ### The main loop's turn (R70, R260, R281) -/

theorem step_eq_runMove (s : State) : step s = runMove (nextMove s).1 { s with agenda := s.agenda.tail } := by
  rw [step, nextMove_snd]

theorem nextMove_fst_of_loopTurn {s : State} (h : s.agenda = [] ∨ s.agenda.head? = some .loop) : (nextMove s).1 = .loop := by
  rcases h with ha | ha
  · rw [nextMove_of_nil ha]
  · obtain ⟨rest, ha⟩ := List.head?_eq_some_iff.1 ha
    rw [nextMove_of_cons ha]

/-- Settles O4: the two bytes of the latched word decode to the instruction that `ServiceInput` runs. -/
theorem stepRunsDecodedInstruction : Obligations.StepRunsDecodedInstruction := by
  intro s i hph hb hag hdec _
  rw [decodeBytes_toBytes] at hdec
  cases hdec
  rw [step_eq_runMove, nextMove_fst_of_loopTurn hag]
  simp only [runMove, loopStep, hph, subStepWork]
  exact congrArg _ (serviceInput_of_ready hb)

/-! ### What the work on the ports leaves of the bridge -/

/-- From `s` to `t` the agenda, both latches and the events stay, and the outbound queue only grew behind its entries. -/
structure BridgeKept (s t : State) : Prop where
  agenda : t.agenda = s.agenda
  ibf : t.ibf = s.ibf
  trace : t.trace = s.trace
  outLatch : t.outLatch = s.outLatch
  outq : s.outq <+: t.outq

theorem BridgeKept.trans {s t u : State} (h : BridgeKept s t) (h' : BridgeKept t u) : BridgeKept s u :=
  ⟨h'.agenda.trans h.agenda, h'.ibf.trans h.ibf, h'.trace.trans h.trace, h'.outLatch.trans h.outLatch, h.outq.trans h'.outq⟩

theorem updPort_bridgeKept (p : PortId) (f : Port → Port) (s : State) : BridgeKept s (s.updPort p f) := by
  cases p <;> exact ⟨rfl, rfl, rfl, rfl, List.prefix_rfl⟩

theorem enqueue_bridgeKept (b : Byte) (f : Bool) (s : State) : BridgeKept s (enqueue b f s) :=
  ⟨rfl, rfl, rfl, rfl, Queue.push_prefix _ _ _⟩

theorem txStart_bridgeKept (p : PortId) (s : State) : BridgeKept s (txStart p s) := updPort_bridgeKept p _ s

theorem timeoutStep_bridgeKept (p : PortId) (s : State) : BridgeKept s (timeoutStep p s) := updPort_bridgeKept p _ s

theorem forward_bridgeKept (p : PortId) (s : State) : BridgeKept s (forward p s) := by
  cases hq : (s.port p).receiveQueue with
  | nil => rw [forward_of_empty hq]; exact ⟨rfl, rfl, rfl, rfl, List.prefix_rfl⟩
  | cons b rest => rw [forward_of_cons hq]; exact (updPort_bridgeKept p _ s).trans (enqueue_bridgeKept _ _ _)

/-! ### How often a pass latches (R194, R280, R70) -/

/-- How many main-loop sub-steps come at least before the pump. From `ServiceInput` it is six and not seven: power can cut the rest of
the pass off. -/
def SubStep.beforePump : SubStep → Nat
  | .txStartPri => 6
  | .timeoutPri => 5
  | .txStartAux => 4
  | .timeoutAux => 3
  | .forwardPri => 2
  | .forwardAux => 1
  | .pumpOutput => 0
  | .serviceInput => 6

theorem SubStep.beforePump_le (k : SubStep) : k.beforePump ≤ 6 := by cases k <;> decide

theorem SubStep.beforePump_le_succ (k : SubStep) : k.beforePump ≤ k.succ.beforePump + 1 := by cases k <;> decide

/-- A sub-step leaves the agenda alone, and the pump alone latches, one entry (R193, R194). -/
theorem subStepWork_latches {k : SubStep} {s t : State} (h : subStepWork k s = .next t) :
    t.agenda = s.agenda ∧ (t.latches = s.latches ∨ k = .pumpOutput ∧ ∃ e, t.latches = s.latches ++ [e]) := by
  have kept {u : State} (hu : BridgeKept s u) : u.agenda = s.agenda ∧ u.latches = s.latches :=
    ⟨hu.agenda, State.latches_of_trace_eq hu.trace⟩
  rcases subStepWork_cases h with ⟨p, rfl⟩ | ⟨p, rfl⟩ | ⟨p, rfl⟩ | ⟨hk, e, rest, -, rfl⟩ | rfl | ⟨-, -, hexec⟩
  · exact (kept (txStart_bridgeKept p s)).imp_right .inl
  · exact (kept (timeoutStep_bridgeKept p s)).imp_right .inl
  · exact (kept (forward_bridgeKept p s)).imp_right .inl
  · exact ⟨rfl, .inr ⟨hk, e, latches_append_latch _ e⟩⟩
  · exact ⟨rfl, .inl rfl⟩
  · obtain ⟨-, -, -, -, htrace, -, -, -, hagenda, -⟩ := exec_frame hexec
    exact ⟨hagenda, .inl ((State.latches_of_trace_eq htrace).trans (clearInput_latches s))⟩

/-- A move that is no sub-step leaves the agenda alone and latches nothing; the place in the pass stays, or power sets it to the start
of a pass (R70, R330). -/
theorem runMove_latches_of_ne_loop {m : Move} {s t : State} (hm : m ≠ .loop) (h : runMove m s = .next t) :
    t.agenda = s.agenda ∧ t.latches = s.latches ∧ (t.phase = s.phase ∨ t.phase = .txStartPri) := by
  rcases runMove_cases h with ⟨hl, -⟩ | ⟨p, d, -, rfl⟩ | ⟨_, _, -, -, rfl⟩ | ⟨-, rfl⟩ | ⟨-, rfl⟩
  · exact absurd hl hm
  · have hkept := updPort_bridgeKept p (Port.edge d) s
    exact ⟨hkept.agenda, State.latches_of_trace_eq hkept.trace, .inl (State.updPort_phase s p _)⟩
  · exact ⟨rfl, rfl, .inl rfl⟩
  · obtain ⟨e, n, hread, -⟩ := hostRead_eq s
    rw [hread]
    exact ⟨rfl, rfl, .inl rfl⟩
  · exact ⟨rfl, rfl, .inr rfl⟩

/-- The price of a latch: a move that latches is a sub-step of the main loop and puts the next pump six sub-steps off; any other move
brings the pump nearer by one sub-step at most, and only if it is one itself. -/
theorem runMove_latch_cost {m : Move} {s t : State} (h : runMove m s = .next t) : t.agenda = s.agenda ∧
    ∃ es, t.latches = s.latches ++ es ∧
      s.phase.beforePump + 7 * es.length ≤ t.phase.beforePump + if m = .loop then 1 else 0 := by
  by_cases hm : m = .loop
  · subst hm
    obtain ⟨u, hu, rfl⟩ := mapNext_eq_next h
    obtain ⟨hagenda, hlatches | ⟨hk, e, hlatches⟩⟩ := subStepWork_latches hu
    · exact ⟨hagenda, [], by rw [List.append_nil]; exact hlatches, s.phase.beforePump_le_succ⟩
    · refine ⟨hagenda, [e], hlatches, ?_⟩
      rw [hk, State.setPhase_phase, if_pos rfl]
      exact Nat.le_refl 7
  · obtain ⟨hagenda, hlatches, hphase⟩ := runMove_latches_of_ne_loop hm h
    refine ⟨hagenda, [], by rw [List.append_nil]; exact hlatches, ?_⟩
    rw [if_neg hm]
    rcases hphase with hphase | hphase <;> rw [hphase]
    · exact Nat.le_refl _
    · exact s.phase.beforePump_le

theorem step_latch_cost {s t : State} (h : step s = .next t) : t.agenda = s.agenda.tail ∧
    ∃ es, t.latches = s.latches ++ es ∧
      s.phase.beforePump + 7 * es.length ≤ t.phase.beforePump + if (nextMove s).1 = .loop then 1 else 0 := by
  rw [step_eq_runMove] at h
  exact runMove_latch_cost h

/-- The sub-steps among the next moves, the first of them apart (R70). -/
theorem State.loopMoves_succ (n : Nat) {s t : State} (ht : t.agenda = s.agenda.tail) :
    s.loopMoves (n + 1) = t.loopMoves n + if (nextMove s).1 = .loop then 1 else 0 := by
  rw [State.loopMoves, State.loopMoves, ht]
  cases ha : s.agenda with
  | nil => simp [nextMove_of_nil ha]
  | cons m rest =>
    simp only [nextMove_of_cons ha, List.take_succ_cons, List.count_cons, beq_iff_eq, List.length_cons, List.tail_cons,
      Nat.add_sub_add_right]
    exact Nat.add_right_comm ..

/-- Along any run every latch costs seven sub-steps of the main loop, but for the distance of the two ends from the pump (R280). -/
theorem steps_latch_cost (n : Nat) : ∀ {s t : State}, steps n s = .next t → ∃ es, t.latches = s.latches ++ es ∧
    s.phase.beforePump + 7 * es.length ≤ t.phase.beforePump + s.loopMoves n := by
  induction n with
  | zero =>
    intro s t h
    cases h
    exact ⟨[], (List.append_nil _).symm, Nat.le_add_right _ _⟩
  | succ n ih =>
    intro s t h
    rw [steps] at h
    split at h
    · next u hu =>
      obtain ⟨hagenda, es, hes, hcost⟩ := step_latch_cost hu
      obtain ⟨es', hes', hcost'⟩ := ih h
      have hloops := State.loopMoves_succ n hagenda
      refine ⟨es ++ es', ?_, ?_⟩
      · rw [hes', hes, List.append_assoc]
      · rw [List.length_append]
        omega
    · cases h
    · cases h

/-- Settles O47: two latches would cost fourteen sub-steps, and neither end of the run is more than six from the pump. -/
theorem oneLatchPerPass : Obligations.OneLatchPerPass := by
  intro s t n hph hn h
  obtain ⟨es, hes, hcost⟩ := steps_latch_cost n h
  have hend : t.phase.beforePump ≤ 6 := t.phase.beforePump_le
  have hstart : s.phase.beforePump = 6 := by rw [hph]; rfl
  match es, hes, hcost with
  | [], hes, _ => exact .inl (hes.trans (List.append_nil _))
  | [e], hes, _ => exact .inr ⟨e, hes⟩
  | _ :: _ :: es, _, hcost =>
    simp only [List.length_cons] at hcost
    omega

/-! ### A pass with no other move (R280) -/

/-- A step with nothing on the agenda is the sub-step whose turn it is (R70). -/
theorem step_of_agenda_nil {s : State} (ha : s.agenda = []) :
    step s = mapNext (State.setPhase s.phase.succ) (subStepWork s.phase s) := by
  rw [step, nextMove_of_nil ha]
  rfl

theorem steps_one (s : State) : steps 1 s = step s := by
  rw [steps]
  cases step s <;> rfl

theorem steps_add_of_next (n : Nat) {m : Nat} : ∀ {s t : State}, steps m s = .next t → steps (m + n) s = steps n t := by
  induction m with
  | zero =>
    intro s t h
    cases h
    rw [Nat.zero_add]
  | succ m ih =>
    intro s t h
    rw [steps] at h
    rw [Nat.succ_add, steps]
    split at h
    · exact ih h
    · cases h
    · cases h

/-- With nothing on the agenda, `n` sub-steps from `k` on do the work `w` and come to `k'`. -/
def LoopRuns (n : Nat) (k k' : SubStep) (w : State → State) : Prop :=
  ∀ s : State, s.agenda = [] → (w s).agenda = [] ∧ steps n (s.setPhase k) = .next ((w s).setPhase k')

theorem LoopRuns.trans {n n' : Nat} {k k' k'' : SubStep} {w w' : State → State} (h : LoopRuns n k k' w)
    (h' : LoopRuns n' k' k'' w') : LoopRuns (n + n') k k'' (w' ∘ w) := by
  intro s ha
  obtain ⟨hw, hsteps⟩ := h s ha
  obtain ⟨hw', hsteps'⟩ := h' (w s) hw
  exact ⟨hw', (steps_add_of_next n' hsteps).trans hsteps'⟩

/-- One sub-step, for work that does not look at the place in the pass. -/
theorem loopRuns_of_work {k : SubStep} {w : State → State} (hwork : ∀ s, subStepWork k s = .next (w s))
    (hphase : ∀ j s, w (s.setPhase j) = (w s).setPhase j) (hagenda : ∀ s, (w s).agenda = s.agenda) :
    LoopRuns 1 k k.succ w := by
  intro s ha
  have hstep : step (s.setPhase k) = mapNext (State.setPhase k.succ) (subStepWork k (s.setPhase k)) :=
    step_of_agenda_nil (s := s.setPhase k) ha
  refine ⟨(hagenda s).trans ha, ?_⟩
  rw [steps_one, hstep, hwork, hphase, mapNext_next]
  rfl

theorem updPort_setPhase (p : PortId) (f : Port → Port) (k : SubStep) (s : State) :
    (s.setPhase k).updPort p f = (s.updPort p f).setPhase k := by cases p <;> rfl

theorem forward_setPhase (p : PortId) (k : SubStep) (s : State) : forward p (s.setPhase k) = (forward p s).setPhase k := by
  have hport : (s.setPhase k).port p = s.port p := by cases p <;> rfl
  cases hq : (s.port p).receiveQueue with
  | nil => rw [forward_of_empty hq, forward_of_empty (by rwa [hport])]
  | cons b rest =>
    rw [forward_of_cons hq, forward_of_cons (by rwa [hport]), updPort_setPhase]
    rfl

theorem loopRuns_updPort {k : SubStep} (p : PortId) {f : Port → Port} (hwork : ∀ s, subStepWork k s = .next (s.updPort p f)) :
    LoopRuns 1 k k.succ (fun s => s.updPort p f) :=
  loopRuns_of_work hwork (updPort_setPhase p f) fun s => State.updPort_agenda s p f

theorem loopRuns_forward {k : SubStep} (p : PortId) (hwork : ∀ s, subStepWork k s = .next (forward p s)) :
    LoopRuns 1 k k.succ (forward p) :=
  loopRuns_of_work hwork (forward_setPhase p) fun s => (forward_bridgeKept p s).agenda

/-- The work of the six sub-steps before the pump (R280, D4). -/
def workBeforePump (s : State) : State :=
  forward .aux (forward .pri (timeoutStep .aux (txStart .aux (timeoutStep .pri (txStart .pri s)))))

theorem workBeforePump_bridgeKept (s : State) : BridgeKept s (workBeforePump s) :=
  (txStart_bridgeKept .pri s).trans <| (timeoutStep_bridgeKept .pri _).trans <| (txStart_bridgeKept .aux _).trans <|
    (timeoutStep_bridgeKept .aux _).trans <| (forward_bridgeKept .pri _).trans (forward_bridgeKept .aux _)

theorem loopRuns_workBeforePump : LoopRuns 6 .txStartPri .pumpOutput workBeforePump :=
  (loopRuns_updPort (k := .txStartPri) .pri fun _ => rfl).trans <|
    (loopRuns_updPort (k := .timeoutPri) .pri fun _ => rfl).trans <|
    (loopRuns_updPort (k := .txStartAux) .aux fun _ => rfl).trans <|
    (loopRuns_updPort (k := .timeoutAux) .aux fun _ => rfl).trans <|
    (loopRuns_forward (k := .forwardPri) .pri fun _ => rfl).trans
    (loopRuns_forward (k := .forwardAux) .aux fun _ => rfl)

/-- The work of the pump sub-step: one transfer if something is pending (R192, R193, R280). -/
def pumpIfPending (s : State) : State :=
  match s.outq with
  | [] => s
  | e :: rest => latchOutput e { s with outq := rest }

theorem pumpIfPending_of_nil {s : State} (h : s.outq = []) : pumpIfPending s = s := by
  rw [pumpIfPending, h]

theorem pumpIfPending_of_cons {s : State} {e : OutEntry} {rest : List OutEntry} (h : s.outq = e :: rest) :
    pumpIfPending s = latchOutput e { s with outq := rest } := by
  rw [pumpIfPending, h]

theorem subStepWork_pumpOutput (s : State) : subStepWork .pumpOutput s = .next (pumpIfPending s) := by
  cases hq : s.outq with
  | nil => simp [subStepWork, hasPendingOutput, hq, pumpIfPending_of_nil hq]
  | cons e rest => simp [subStepWork, hasPendingOutput, hq, pumpOutput_of_cons hq, pumpIfPending_of_cons hq]

theorem pumpIfPending_setPhase (k : SubStep) (s : State) : pumpIfPending (s.setPhase k) = (pumpIfPending s).setPhase k := by
  cases hq : s.outq with
  | nil => rw [pumpIfPending_of_nil hq, pumpIfPending_of_nil (s := s.setPhase k) hq]
  | cons e rest =>
    rw [pumpIfPending_of_cons hq, pumpIfPending_of_cons (s := s.setPhase k) hq]
    rfl

theorem pumpIfPending_agenda (s : State) : (pumpIfPending s).agenda = s.agenda := by
  cases hq : s.outq with
  | nil => rw [pumpIfPending_of_nil hq]
  | cons e rest => rw [pumpIfPending_of_cons hq]; rfl

theorem loopRuns_pumpOutput : LoopRuns 1 .pumpOutput .serviceInput pumpIfPending :=
  loopRuns_of_work subStepWork_pumpOutput pumpIfPending_setPhase pumpIfPending_agenda

/-- A pass with no other move between its sub-steps (R280, R281). -/
theorem steps_pass {s : State} (hph : s.phase = .txStartPri) (ha : s.agenda = []) :
    steps 8 s = mapNext (State.setPhase .txStartPri)
      (serviceInput ((pumpIfPending (workBeforePump s)).setPhase .serviceInput)) := by
  have hs : s.setPhase .txStartPri = s := by rw [← hph]; rfl
  obtain ⟨hagenda, hseven⟩ := loopRuns_workBeforePump.trans loopRuns_pumpOutput s ha
  rw [hs] at hseven
  rw [steps_add_of_next 1 hseven, steps_one]
  exact step_of_agenda_nil (s := (pumpIfPending (workBeforePump s)).setPhase .serviceInput) hagenda

/-! ### A queued entry reaches the latch (R193, R282, R361) -/

/-- The start of a pass that nothing interrupts: no other move, and no host byte to service. -/
structure QuietStart (s : State) : Prop where
  phase : s.phase = .txStartPri
  agenda : s.agenda = []
  ibf : s.ibf = false

/-- A quiet pass latches the front entry; what was behind it moves up, ahead of what the pass forwards (R282). -/
theorem QuietStart.steps_pass_latches {s : State} (hs : QuietStart s) {e : OutEntry} {rest : List OutEntry} (hq : s.outq = e :: rest) :
    ∃ t more, steps 8 s = .next t ∧ QuietStart t ∧ t.outq = rest ++ more ∧ t.latches = s.latches ++ [e] ∧
      t.outLatch = some e := by
  have hpass := steps_pass hs.phase hs.agenda
  have hkept := workBeforePump_bridgeKept s
  generalize workBeforePump s = v at hpass hkept
  obtain ⟨more, hmore⟩ := hkept.outq
  have hpump : pumpIfPending v = latchOutput e { v with outq := rest ++ more } :=
    pumpIfPending_of_cons (by rw [← hmore, hq, List.cons_append])
  have hibf : v.ibf = false := hkept.ibf.trans hs.ibf
  have hlatches : v.latches = s.latches := State.latches_of_trace_eq hkept.trace
  refine ⟨(latchOutput e { v with outq := rest ++ more }).setPhase .txStartPri, more, ?_,
    ⟨rfl, hkept.agenda.trans hs.agenda, hibf⟩, rfl, ?_, rfl⟩
  · rw [hpass, hpump, serviceInput_of_not_ready]
    · rfl
    · exact hibf
  · rw [← hlatches]
    exact latches_append_latch _ e

/-- Settles O49: induction on the entries ahead, one quiet pass for each. -/
theorem queuedEntriesReachTheLatch : Obligations.QueuedEntriesReachTheLatch := by
  intro s ahead behind e hph ha hb
  have hs : QuietStart s := ⟨hph, ha, hb⟩
  clear hph ha hb
  induction ahead generalizing s behind with
  | nil =>
    intro hq
    obtain ⟨t, -, hsteps, -, -, hlatches, hlatch⟩ := hs.steps_pass_latches hq
    exact ⟨t, hsteps, by rwa [List.append_nil], hlatch⟩
  | cons a ahead ih =>
    intro hq
    obtain ⟨u, more, hpass, hu, huq, hfirst, -⟩ := hs.steps_pass_latches (rest := ahead ++ e :: behind) hq
    obtain ⟨t, hsteps, hlatches, hlatch⟩ := ih u (behind ++ more) hu (by rw [huq, List.append_assoc, List.cons_append])
    refine ⟨t, ?_, ?_, hlatch⟩
    · rw [List.length_cons, Nat.mul_succ, Nat.add_comm, steps_add_of_next _ hpass, hsteps]
    · rw [hlatches, hfirst, ← List.append_cons]

end Sys2Proof.Machine
end

section
/-! PROOFS. The family of spec/44_commands.md: the commands that respond (R211, R212, R217 to R219, R222, R223), the first words of
the two-word commands (R213, R214, R224 to R227), the channel commands (R215, R216, R220, R221) and the store round trip (E7). -/

namespace Sys2Proof.Machine

/-! ### The store round trip (R212, R214, R267) -/

theorem dispatch_wrnv {s : State} {a : StorageAddr} (hpend : s.pending = .none) (ha : isNvAddr a = true) :
    dispatch { tag := .cmd, byte := windowCode codeWriteWindow a } s = .next (setPending (.awaitingStoreWrite a) s) := by
  rw [dispatch, hpend, decode, decodeCommand_windowCode_write _ ha]
  rfl

theorem dispatch_rdnv {s : State} {a : StorageAddr} (hpend : s.pending = .none) (ha : isNvAddr a = true) :
    dispatch { tag := .cmd, byte := windowCode codeReadWindow a } s = .next (respond (Memory.read s.nv a.toNat) s) := by
  rw [dispatch, hpend, decode, decodeCommand_windowCode_read _ ha, exec_rdnv_of_isNvAddr s ha]

theorem exec_operandWrnv_of_isNvAddr (s : State) {a : StorageAddr} (t : Tag) (b : Byte) (ha : isNvAddr a = true) :
    exec (.operandWrnv a t b) s = .next (setPending .none { s with nv := Memory.write s.nv a.toNat b }) := by
  rw [exec, execOperandWrnv, memWrite_of_isNvAddr s b ha]

theorem dispatch_storeWrite {s : State} {a : StorageAddr} (hpend : s.pending = .awaitingStoreWrite a) (ha : isNvAddr a = true)
    (t : Tag) (b : Byte) :
    dispatch { tag := t, byte := b } s = .next (setPending .none { s with nv := Memory.write s.nv a.toNat b }) := by
  have hdecode : decode s.resetCodes s.pending { tag := t, byte := b } = .operandWrnv a t b := by rw [hpend, decode]
  rw [dispatch, hdecode, exec_operandWrnv_of_isNvAddr s t b ha]

/-- Slot number `n` of the store has address `n + 1`, which both windows reach (R61, R62). -/
theorem exists_slotAddr {n : Nat} (hn : n < 30) : ∃ a : StorageAddr, isNvAddr a = true ∧ a.toNat = n + 1 ∧
    BitVec.ofNat 8 (0x61 + n) = windowCode codeWriteWindow a ∧ BitVec.ofNat 8 (0x21 + n) = windowCode codeReadWindow a := by
  have haddr : (BitVec.ofNat 5 (n + 1)).toNat = n + 1 := Nat.mod_eq_of_lt (by omega)
  have hcode (base : Byte) : BitVec.ofNat 8 (base.toNat + 1 + n) = windowCode base (BitVec.ofNat 5 (n + 1)) := by
    apply BitVec.eq_of_toNat_eq
    simp only [windowCode, BitVec.toNat_add, BitVec.toNat_setWidth, haddr, BitVec.toNat_ofNat]
    omega
  refine ⟨BitVec.ofNat 5 (n + 1), (isNvAddr_iff _).2 ?_, haddr, hcode codeWriteWindow, hcode codeReadWindow⟩
  rw [haddr]
  exact ⟨Nat.le_add_left 1 n, hn⟩

/-- Settles O19: both commands carry the slot's address, the operand is written there alone, and the read finds it. -/
theorem storeRoundTrip : Obligations.StoreRoundTrip := by
  intro s y t n hn hpend hroom
  obtain ⟨a, ha, haddr, hwrite, hread⟩ := exists_slotAddr hn
  rw [hwrite, hread, ← haddr]
  refine ⟨_, _, _, responseFlag, dispatch_wrnv hpend ha, dispatch_storeWrite rfl ha t y, dispatch_rdnv rfl ha, ?_,
    fun x hx => Memory.read_write_other s.nv y hx⟩
  simp only [respond_outq, setPending_nv, setPending_outq, Memory.read_write_same]
  exact Queue.push_of_room (y, responseFlag) (Nat.succ_lt_succ hroom)

/-! ### The commands that respond (R211, R212, R217 to R219, R222, R223) -/

/-- Whatever byte it is made from, the interface-test code differs from the self-test's (R11, D18). -/
theorem ifTestPass_ne_selfTestPass : Config.ifTestPass ≠ Config.selfTestPass := by
  rw [Config.ifTestPass]
  split
  · decide
  · next h => exact h

/-- A response is flagged primary (D14) and dropped when 31 entries are held (R191). -/
theorem respond_eq (v : Byte) (s : State) :
    respond v s = { s with outq := if s.outq.length < 31 then s.outq ++ [(v, false)] else s.outq } :=
  enqueue_eq v false s

/-- Settles O8: each of the seven is `respond` with its byte. -/
theorem respondingCommands : Obligations.RespondingCommands := by
  refine ⟨ifTestPass_ne_selfTestPass, fun s => ?_⟩
  have hanswer (v : Byte) := congrArg (Host.Outcome.next (φ := Fault) (ρ := Refusal)) (respond_eq v s)
  refine ⟨hanswer s.cfg, fun a hlo hhi => ?_, hanswer _, hanswer _, hanswer _, hanswer _, hanswer _⟩
  exact (exec_rdnv_of_isNvAddr s ((isNvAddr_iff a).2 ⟨hlo, hhi⟩)).trans (hanswer _)

/-! ### The first words of the two-word commands (R213, R214, R224 to R227) -/

/-- Settles O9: the codes of the window decode by their address, and 0x7F lies in a gap of the command map. -/
theorem writeWindowSetsPending : Obligations.WriteWindowSetsPending := by
  refine ⟨⟨fun _ => rfl, fun _ => rfl⟩, fun a hlo hhi => ⟨fun resets => ?_, fun _ => rfl, fun resets hnot => ?_⟩⟩
  · exact decodeCommand_windowCode_write resets ((isNvAddr_iff a).2 ⟨hlo, hhi⟩)
  · have hgap : isCommandCode 0x7F = false := isCommandCode_of_gap 0x7F (by decide)
    exact (decodeCommand_of_unmapped resets hgap).trans (if_neg hnot)

/-- Settles O10: the four codes and the four meanings as the model writes them. -/
theorem twoWordCommandsSetPending : Obligations.TwoWordCommandsSetPending :=
  ⟨fun _ => ⟨rfl, rfl, rfl, rfl⟩, fun _ => ⟨rfl, rfl, rfl, rfl⟩⟩

/-! ### The channel commands (R215, R216, R220, R221) -/

theorem byteBit_mask (k : Nat) {i : Nat} (hi : i < 8) : byteBit (1#8 <<< k) i = decide (i = k) := by
  rw [byteBit, BitVec.getLsbD_shiftLeft, BitVec.getLsbD_one, Bool.eq_iff_iff]
  simp only [Bool.and_eq_true, Bool.not_eq_true', decide_eq_true_eq, decide_eq_false_iff_not]
  omega

theorem byteBit_setByteBit (c : Byte) (k : Nat) {i : Nat} (hi : i < 8) :
    byteBit (setByteBit c k) i = if i = k then true else byteBit c i := by
  have hor : byteBit (setByteBit c k) i = (byteBit c i || byteBit (1#8 <<< k) i) := BitVec.getLsbD_or
  rw [hor, byteBit_mask k hi]
  by_cases h : i = k <;> simp [h]

theorem byteBit_clearByteBit (c : Byte) (k : Nat) {i : Nat} (hi : i < 8) :
    byteBit (clearByteBit c k) i = if i = k then false else byteBit c i := by
  have hand : byteBit (clearByteBit c k) i = (byteBit c i && (decide (i < 8) && !byteBit (1#8 <<< k) i)) := by
    rw [byteBit, clearByteBit, BitVec.getLsbD_and, BitVec.getLsbD_not]
    rfl
  rw [hand, byteBit_mask k hi]
  by_cases h : i = k <;> simp [h, hi]

/-- Settles O14: the configuration byte with the port's disable bit set or cleared, and `SetInhibit` on that port. -/
theorem channelCommands : Obligations.ChannelCommands := by
  intro s
  refine ⟨⟨setByteBit s.cfg cfgAuxiliaryDisabled, ?_, fun i hi => byteBit_setByteBit s.cfg _ hi⟩,
    ⟨clearByteBit s.cfg cfgAuxiliaryDisabled, ?_, fun i hi => byteBit_clearByteBit s.cfg _ hi⟩,
    ⟨setByteBit s.cfg cfgKeyboardDisabled, ?_, fun i hi => byteBit_setByteBit s.cfg _ hi⟩,
    ⟨clearByteBit s.cfg cfgKeyboardDisabled, ?_, fun i hi => byteBit_clearByteBit s.cfg _ hi⟩⟩
  · exact congrArg Host.Outcome.next (disableChannel_aux s)
  · exact congrArg Host.Outcome.next (enableChannel_aux s)
  · exact congrArg Host.Outcome.next (disableChannel_pri s)
  · exact congrArg Host.Outcome.next (enableChannel_pri s)

end Sys2Proof.Machine
end

section
/-! PROOFS. The family of spec/45_data_phase_and_scheduler.md: the dispatch of a host byte (R260), the data phases and the data port
(R262 to R268), forwarding (R270, R271), the order of one pass (R280, R281) and that a received byte is latched in the pass it meets
with nothing ahead of it (R282). -/

namespace Sys2Proof.Machine

/-! ### Bytes for a device (R266, R268) -/

/-- `Push` to a transmit queue with its capacity written out (R120, R123). -/
theorem Port.pushTransmit_eq (b : Byte) (P : Port) : P.pushTransmit b = { P with
    transmitQueue := if P.transmitQueue.length < 15 then P.transmitQueue ++ [b] else P.transmitQueue } := by
  rw [pushTransmit, Config.ps2QueueSlots, Queue.push_succ_eq]

theorem exec_data (b : Byte) (s : State) : exec (.data b) s = .next { s with pri := { s.pri with
    transmitQueue := if s.pri.transmitQueue.length < 15 then s.pri.transmitQueue ++ [b] else s.pri.transmitQueue } } := by
  rw [← Port.pushTransmit_eq]
  rfl

/-- Settles O12: either byte is pushed to its port's transmit queue, which no other field decides. -/
theorem deviceBytesAreQueued : Obligations.DeviceBytesAreQueued := by
  refine fun s t b => ⟨exec_data b s, ?_⟩
  rw [← Port.pushTransmit_eq]
  rfl

/-! ### The data phases (R262 to R267) -/

/-- Settles O13: `writeCfg` stores the byte and mirrors its bits 4 and 5 through `SetInhibit`. -/
theorem configWriteMirrorsInhibit : Obligations.ConfigWriteMirrorsInhibit :=
  fun s _ b => congrArg (fun u => Host.Outcome.next (setPending .none u)) (writeCfg_eq b s)

/-- Settles O11: the write of the output port is discarded, the two output-buffer bytes are enqueued, and a store write at an address
of the store is read back there and nowhere else. -/
theorem dataPhaseResults : Obligations.DataPhaseResults := by
  intro s resets t b
  have hqueued (f : Bool) := congrArg (fun u => (Host.Outcome.next (setPending .none u) : Result)) (enqueue_eq b f s)
  refine ⟨⟨rfl, rfl⟩, ⟨rfl, hqueued false⟩, ⟨rfl, hqueued true⟩, fun a hlo hhi => ⟨rfl, Memory.write s.nv a.toNat b, ?_, fun x => ?_⟩⟩
  · exact exec_operandWrnv_of_isNvAddr s t b ((isNvAddr_iff a).2 ⟨hlo, hhi⟩)
  · split
    · next hx => rw [hx, Memory.read_write_same]
    · next hx => exact Memory.read_write_other s.nv b hx

/-! ### The dispatch of a host byte (R260) -/

/-- With a command pending the tag selects nothing (R260). -/
theorem dispatch_tag_irrel {s : State} (h : s.pending ≠ .none) (t t' : Tag) (b : Byte) :
    dispatch { tag := t, byte := b } s = dispatch { tag := t', byte := b } s := by
  rw [dispatch, dispatch]
  cases hm : s.pending with
  | none => exact absurd hm h
  | _ => rfl

/-- Every data phase ends with the pending state at None (R260). -/
theorem exec_pending_of_operand {i : Instr} {s u : State} (hi : i.mode ≠ .none) (h : exec i s = .next u) : u.pending = .none := by
  cases i
  case operandWrnv a t b => rcases exec_operandWrnv_cases h with rfl | rfl <;> rfl
  case operandWrcfg | operandWrout | operandWrkbdob | operandWrauxob | operandWrauxdev => cases h; rfl
  all_goals exact absurd rfl hi

theorem dispatch_data {s : State} (h : s.pending = .none) (b : Byte) :
    dispatch { tag := .data, byte := b } s = exec (.data b) s := by
  rw [dispatch, h]
  rfl

/-- Settles O17: under a legal pending state the word stands for a data phase of that state, which completes; with nothing pending
the tag selects the port. -/
theorem hostByteDispatch : Obligations.HostByteDispatch := by
  refine fun s b => ⟨fun hne hwf => ?_, fun hpend => ⟨?_, ?_⟩⟩
  · obtain ⟨hi, hmode, hword⟩ := decode_standsFor s.resetCodes hwf { tag := .data, byte := b }
    obtain ⟨u, hu, -⟩ := exec_wf hi s
    exact ⟨_, u, fun t => (dispatch_tag_irrel hne t .data b).trans hu, exec_pending_of_operand (by rwa [hmode]) hu, hu,
      hmode, congrArg HostWord.byte hword⟩
  · rw [dispatch, hpend]
    rfl
  · rw [dispatch_data hpend, exec_data]

/-! ### Forwarding (R270, R271) -/

theorem channelFlag_eq (p : PortId) : channelFlag p = decide (p = .aux) := by cases p <;> rfl

/-- What `Forward` does with a received byte, with the outbound queue's capacity written out (R270, R342). -/
theorem forward_eq_setPort {p : PortId} {s : State} {b : Byte} {rest : List Byte} (h : (s.port p).receiveQueue = b :: rest) :
    forward p s = { s with
      outq := if s.outq.length < 31 then s.outq ++ [(b, decide (p = PortId.aux))] else s.outq }.setPort p
        { s.port p with receiveQueue := rest } := by
  rw [forward_of_cons h, enqueue_eq, channelFlag_eq]
  cases p <;> rfl

/-- Settles O42: an empty and a filled receive queue. -/
theorem forwardResult : Obligations.ForwardResult :=
  fun _ _ => ⟨forward_of_empty, fun _ _ => forward_eq_setPort⟩

theorem forward_outq_of_room {p : PortId} {s : State} {b : Byte} {rest : List Byte} (h : (s.port p).receiveQueue = b :: rest)
    (hroom : s.outq.length < 31) : (forward p s).outq = s.outq ++ [(b, decide (p = PortId.aux))] := by
  rw [forward_eq_setPort h, State.setPort_outq, if_pos hroom]

theorem forward_withCfg (p : PortId) (c : Byte) (s : State) : forward p { s with cfg := c } = { forward p s with cfg := c } := by
  have hport : State.port { s with cfg := c } p = s.port p := by cases p <;> rfl
  cases hq : (s.port p).receiveQueue with
  | nil => rw [forward_of_empty hq, forward_of_empty (by rwa [hport])]
  | cons b rest =>
    rw [forward_of_cons hq, forward_of_cons (by rwa [hport])]
    cases p <;> rfl

/-- Settles O43: `Forward` commutes with a write of the configuration register, and what it enqueues is the front byte. -/
theorem forwardIgnoresConfig : Obligations.ForwardIgnoresConfig := by
  refine fun s p c => ⟨forward_withCfg p c s, fun b rest hq hroom => ⟨decide (p = PortId.aux), ?_⟩⟩
  rw [forward_withCfg]
  exact forward_outq_of_room hq hroom

/-! ### The order of a pass (R280, R281) -/

theorem memWrite_setPhase (k : SubStep) (s : State) (a : StorageAddr) (v : Byte) :
    memWrite (s.setPhase k) a v = (memWrite s a v).map (State.setPhase k) := by
  rw [memWrite, memWrite]
  split
  · rfl
  · split <;> rfl

/-- No instruction reads or writes the place in the pass (R281). -/
theorem exec_setPhase (i : Instr) (k : SubStep) (s : State) : exec i (s.setPhase k) = mapNext (State.setPhase k) (exec i s) := by
  cases i
  case rdnv a =>
    have hread : memRead (s.setPhase k) a = memRead s a := rfl
    rw [exec, exec, execRdnv, execRdnv, hread]
    cases memRead s a <;> rfl
  case operandWrnv a t b =>
    rw [exec, exec, execOperandWrnv, execOperandWrnv, memWrite_setPhase]
    cases memWrite s a b <;> rfl
  all_goals rfl

theorem mapNext_setPhase_setPhase (j k : SubStep) (r : Result) :
    mapNext (State.setPhase k) (mapNext (State.setPhase j) r) = mapNext (State.setPhase k) r := by cases r <;> rfl

theorem serviceInput_setPhase (k : SubStep) (s : State) :
    serviceInput (s.setPhase k) = mapNext (State.setPhase k) (serviceInput s) := by
  cases hb : s.ibf with
  | false => rw [serviceInput_of_not_ready hb, serviceInput_of_not_ready (s := s.setPhase k) hb, mapNext_next]
  | true =>
    rw [serviceInput_of_ready hb, serviceInput_of_ready (s := s.setPhase k) hb]
    exact exec_setPhase _ k (clearInput s)

/-- Settles O45: the pass as `steps_pass` composes it; servicing the host byte does not read the place in the pass. -/
theorem passOrder : Obligations.PassOrder := by
  intro s hph ha
  rw [steps_pass hph ha, serviceInput_setPhase, mapNext_setPhase_setPhase]
  rfl

/-! ### A received byte reaches the latch (R270, R280, R282) -/

/-- The work of the four sub-steps before the forwards (R280, D4). -/
def transmitWork (s : State) : State := timeoutStep .aux (txStart .aux (timeoutStep .pri (txStart .pri s)))

theorem workBeforePump_eq (s : State) : workBeforePump s = forward .aux (forward .pri (transmitWork s)) := rfl

theorem updPort_receiveQueue (p q : PortId) {f : Port → Port} (hf : ∀ P : Port, (f P).receiveQueue = P.receiveQueue) (s : State) :
    ((s.updPort p f).port q).receiveQueue = (s.port q).receiveQueue := by
  by_cases h : q = p
  · rw [h, State.updPort_port_same, hf]
  · rw [State.updPort_port_other s p q f h]

theorem txStart_receiveQueue (p q : PortId) (s : State) : ((txStart p s).port q).receiveQueue = (s.port q).receiveQueue :=
  updPort_receiveQueue p q (fun P => have ⟨_, hreceive, _⟩ := P.txStart_frame; hreceive) s

theorem timeoutStep_receiveQueue (p q : PortId) (s : State) : ((timeoutStep p s).port q).receiveQueue = (s.port q).receiveQueue :=
  updPort_receiveQueue p q (fun P => have ⟨_, hreceive, _⟩ := P.timeoutStep_frame; hreceive) s

theorem transmitWork_receiveQueue (q : PortId) (s : State) : ((transmitWork s).port q).receiveQueue = (s.port q).receiveQueue := by
  rw [transmitWork, timeoutStep_receiveQueue, txStart_receiveQueue, timeoutStep_receiveQueue, txStart_receiveQueue]

theorem transmitWork_outq (s : State) : (transmitWork s).outq = s.outq := by
  simp only [transmitWork, timeoutStep, txStart, State.updPort_outq]

theorem forward_receiveQueue_same {p : PortId} {s : State} {b : Byte} {rest : List Byte} (h : (s.port p).receiveQueue = b :: rest) :
    ((forward p s).port p).receiveQueue = rest := by
  rw [forward_eq_setPort h, State.setPort_port_same]

theorem forward_port_other {p q : PortId} (h : q ≠ p) (s : State) : (forward p s).port q = s.port q := by
  cases hq : (s.port p).receiveQueue with
  | nil => rw [forward_of_empty hq]
  | cons b rest =>
    rw [forward_eq_setPort hq, State.setPort_port_other _ p q _ h]
    cases q <;> rfl

theorem forward_pending (p : PortId) (s : State) : (forward p s).pending = s.pending := by
  obtain ⟨-, -, -, hpend, -⟩ := forward_keeps p s
  exact hpend

theorem workBeforePump_pending (s : State) : (workBeforePump s).pending = s.pending := by
  simp only [workBeforePump, forward_pending, timeoutStep, txStart, State.updPort_pending]

/-- With nothing queued for the host and nothing received before it, the byte a port received is at the front when the pump's turn
comes: the auxiliary port's forward only adds behind the primary port's byte (R270, R280, D4). -/
theorem workBeforePump_front {s : State} {p : PortId} {b : Byte} {rest : List Byte} (hq : s.outq = [])
    (hrecv : (s.port p).receiveQueue = b :: rest) (hpri : p = .aux → s.pri.receiveQueue = []) :
    ∃ more, (workBeforePump s).outq = (b, decide (p = PortId.aux)) :: more ∧
      ((workBeforePump s).port p).receiveQueue = rest := by
  rw [workBeforePump_eq]
  have hempty := transmitWork_outq s
  have hkept (q : PortId) := transmitWork_receiveQueue q s
  generalize transmitWork s = v at hempty hkept
  rw [← hkept] at hrecv
  rw [hq] at hempty
  have hroom : v.outq.length < 31 := by rw [hempty]; decide
  have hfront : (forward p v).outq = [(b, decide (p = PortId.aux))] := by
    rw [forward_outq_of_room hrecv hroom, hempty, List.nil_append]
  cases p with
  | pri =>
    obtain ⟨more, hmore⟩ := (forward_bridgeKept .aux (forward .pri v)).outq
    refine ⟨more, ?_, ?_⟩
    · rw [← hmore, hfront, List.singleton_append]
    · rw [forward_port_other (p := .aux) (q := .pri) nofun, forward_receiveQueue_same hrecv]
  | aux =>
    rw [forward_of_empty ((hkept .pri).trans (hpri rfl))]
    exact ⟨[], hfront, forward_receiveQueue_same hrecv⟩

/-- Servicing a host byte latches nothing (R194, R281). -/
theorem serviceInput_latches {s t : State} (h : serviceInput s = .next t) : t.latches = s.latches ∧ t.outLatch = s.outLatch := by
  cases hb : s.ibf with
  | false =>
    cases (serviceInput_of_not_ready hb).symm.trans h
    exact ⟨rfl, rfl⟩
  | true =>
    rw [serviceInput_of_ready hb] at h
    obtain ⟨-, -, -, hlatch, htrace, -⟩ := exec_frame h
    exact ⟨(State.latches_of_trace_eq htrace).trans (clearInput_latches s), hlatch⟩

/-- Settles O48: the byte is at the front when the pump's turn comes, and what is serviced after the pump completes and latches
nothing. -/
theorem receivedByteLatchedSamePass : Obligations.ReceivedByteLatchedSamePass := by
  intro s p b rest hph ha hwf hq hrecv hpri
  have hpass := steps_pass hph ha
  have hkept := workBeforePump_bridgeKept s
  have hpend := workBeforePump_pending s
  obtain ⟨more, hfront, hrest⟩ := workBeforePump_front hq hrecv hpri
  generalize workBeforePump s = v at hpass hkept hpend hfront hrest
  rw [pumpIfPending_of_cons hfront, serviceInput_setPhase, mapNext_setPhase_setPhase] at hpass
  obtain ⟨t, ht⟩ := serviceInput_completes
    (s := latchOutput (b, decide (p = PortId.aux)) { v with outq := more }) (by rwa [← hpend] at hwf)
  obtain ⟨hlatches, hlatch⟩ := serviceInput_latches ht
  refine ⟨t.setPhase .txStartPri, by rw [hpass, ht, mapNext_next], ?_, hlatch, fun hb => ?_⟩
  · have hbefore : v.latches = s.latches := State.latches_of_trace_eq hkept.trace
    rw [← hbefore]
    exact hlatches.trans (latches_append_latch _ _)
  · have hibf : (latchOutput (b, decide (p = PortId.aux)) { v with outq := more }).ibf = false := hkept.ibf.trans hb
    rw [serviceInput_of_not_ready hibf] at ht
    cases ht
    cases p <;> exact hrest

end Sys2Proof.Machine
end

section
/-! PROOFS. The family of spec/60_exceptions.md: the order of edges that occur together on the two ports (R308). -/

namespace Sys2Proof.Machine

/-! ### Edges that occur together (R308) -/

/-- The records of two ports are written independently (R20). -/
theorem State.setPort_comm {p q : PortId} (h : p ≠ q) (s : State) (P Q : Port) :
    (s.setPort q Q).setPort p P = (s.setPort p P).setPort q Q := by
  cases p with
  | pri =>
    cases q with
    | pri => exact absurd rfl h
    | aux => rfl
  | aux =>
    cases q with
    | pri => rfl
    | aux => exact absurd rfl h

/-- The handler of one port neither reads nor writes the other port's record, so the order of the two does not matter (R20, R308). -/
theorem edge_comm {p q : PortId} (h : p ≠ q) (d e : Level) (s : State) :
    edge p d (edge q e s) = edge q e (edge p d s) := by
  simp only [edge_eq_setPort, State.setPort_port_other _ _ _ _ h, State.setPort_port_other _ _ _ _ h.symm]
  exact State.setPort_comm h s _ _

/-- Settles O28: the two ports are distinct. -/
theorem edgesOfTwoPortsCommute : Obligations.EdgesOfTwoPortsCommute :=
  fun s d e => edge_comm (p := .pri) (q := .aux) nofun d e s

end Sys2Proof.Machine
end

section
/-! PROOFS. The family of spec/70_reset_and_hazards.md: the reset command (R331 to R333). -/

namespace Sys2Proof.Machine

/-! ### The reset command (R331, R332, R333) -/

/-- A port after the reset command, its disable bit `v` mirrored first: the power-on link state with the clock line as the bit says,
the data line released after it, and each queue some part of what it was (R331, R332, D22). -/
theorem Port.commandReset_setInhibit (n : Nat) (v : Bool) (P : Port) :
    let Q := (P.setInhibit v).commandReset n
    Q.link = .idle ∧ Q.bitCount = 0 ∧ Q.timeoutCounter = 0 ∧ Q.clkDriveLow = Q.inhibited ∧ Q.dataDriveLow = false ∧
      Q.lineLog = P.lineLog ++ [.clk Q.inhibited, .data false] ∧
      Q.receiveQueue.Sublist P.receiveQueue ∧ Q.transmitQueue.Sublist P.transmitQueue := by
  have hlog : (P.lineLog ++ [.clk v]) ++ [.data false] = P.lineLog ++ [.clk v, .data false] := List.append_assoc ..
  exact ⟨rfl, rfl, rfl, rfl, rfl, hlog, Queue.drawFrom_sublist _ _ _, Queue.drawFrom_sublist _ _ _⟩

/-- Settles O15: the ports are each `Port.commandReset` of their mirrored record, the outbound queue is drawn like theirs, and what
no instruction changes stays. -/
theorem resetCommandResult : Obligations.ResetCommandResult := by
  intro s c
  have hexec : exec (.reset c) s = .next (commandReset s) := rfl
  obtain ⟨hibf, hbyte, htag, hlatch, htrace, hbus, hreads, hphase, hagenda, hcodes⟩ := exec_frame hexec
  refine ⟨commandReset s, hexec, rfl, rfl, rfl, rfl, fun p => ?_, Queue.drawFrom_sublist _ _ _, rfl, hlatch, hibf, hbyte, htag,
    htrace, hbus, hreads, hphase, hagenda, hcodes⟩
  cases p with
  | pri => exact Port.commandReset_setInhibit _ _ s.pri
  | aux => exact Port.commandReset_setInhibit _ _ s.aux

end Sys2Proof.Machine
end
